-- ==== Sys2Proof/Word.lean ====
section
/-!
DEFINITION. The word types of the machine: everything here is a bit vector because the spec treats it as
bits (register contents, the instruction word and its fields, addresses while they are computed).
-/

namespace Sys2Proof

/-- A register or memory cell: 8 bits, unsigned (10_state.md R11, R20). -/
abbrev Byte := BitVec 8

/-- An instruction word, `pc`, `I` or a stack entry: 16 bits (R13, R14, R17, R60). -/
abbrev Word := BitVec 16

/-- The 4-bit fields `x` and `y`: the number of a register (30_encoding.md R61). -/
abbrev RegIx := BitVec 4

/-- A 4-bit field that is no register number: `op` and `n` (R61). -/
abbrev Nibble := BitVec 4

/-- The 12-bit field `nnn` (R61). -/
abbrev Addr := BitVec 12

end Sys2Proof
end

