-- ==== Sys2Proof/Syntax.lean ====
section
/-!
DEFINITION. The instruction set: one constructor per row of spec/opcode_table.json, in the table's order
(30_encoding.md R65). A constructor holds every bit its row leaves free, ignored ones included (R68, R70), so that no
bit of a word is lost in decoding.
-/

namespace Sys2Proof

/-- An instruction. The pattern and the rule of each row stand in the constructor's docstring. -/
inductive Instr where
  /-- `00E0`, 44_display.md R130: clear the display. -/
  | cls
  /-- `00EE`, 40_control_transfer.md R80: return from subroutine. -/
  | ret
  /-- `0nnn` other than the two above, R81: legacy machine-routine jump. -/
  | sys (nnn : Addr)
  /-- `1nnn`, R82: jump. -/
  | jp (nnn : Addr)
  /-- `2nnn`, R83: call. -/
  | call (nnn : Addr)
  /-- `3xkk`, 41_skips.md R90: skip if `V[x] = kk`. -/
  | seImm (x : RegIx) (kk : Byte)
  /-- `4xkk`, R91: skip if `V[x] ≠ kk`. -/
  | sneImm (x : RegIx) (kk : Byte)
  /-- `5xy0`, R92: skip if `V[x] = V[y]`; `n` is ignored (R68). -/
  | seReg (x y : RegIx) (n : Nibble)
  /-- `6xkk`, 42_register_alu.md R100: load immediate. -/
  | ldImm (x : RegIx) (kk : Byte)
  /-- `7xkk`, R101: add immediate, no flag. -/
  | addImm (x : RegIx) (kk : Byte)
  /-- `8xy0`, R102: copy register. -/
  | ldReg (x y : RegIx)
  /-- `8xy1`, R103: bitwise or. -/
  | orReg (x y : RegIx)
  /-- `8xy2`, R104: bitwise and. -/
  | andReg (x y : RegIx)
  /-- `8xy3`, R105: bitwise exclusive or. -/
  | xorReg (x y : RegIx)
  /-- `8xy4`, R106: add with carry flag. -/
  | addReg (x y : RegIx)
  /-- `8xy5`, R107: subtract `V[y]` from `V[x]`, no-borrow flag. -/
  | subReg (x y : RegIx)
  /-- `8xy6`, R108: shift right by one; `y` is ignored (R70). -/
  | shr (x y : RegIx)
  /-- `8xy7`, R109: `V[y]` minus `V[x]`, no-borrow flag. -/
  | subnReg (x y : RegIx)
  /-- `8xyE`, R110: shift left by one; `y` is ignored (R70). -/
  | shl (x y : RegIx)
  /-- `8xy?` with `n` in 8, 9, A, B, C, D, F, R111: no-op. -/
  | nop8 (x y : RegIx) (n : Nibble)
  /-- `9xy0`, 41_skips.md R93: skip if `V[x] ≠ V[y]`; `n` is ignored (R68). -/
  | sneReg (x y : RegIx) (n : Nibble)
  /-- `Annn`, 43_index_memory.md R120: load index. -/
  | ldI (nnn : Addr)
  /-- `Bnnn`, 40_control_transfer.md R84: jump with offset `V[0]`. -/
  | jpV0 (nnn : Addr)
  /-- `Cxkk`, 42_register_alu.md R112: random byte under mask. -/
  | rnd (x : RegIx) (kk : Byte)
  /-- `Dxyn`, 44_display.md R131: draw sprite. -/
  | drw (x y : RegIx) (n : Nibble)
  /-- `Ex9E`, 45_keys_timers.md R140: skip if key pressed. -/
  | skp (x : RegIx)
  /-- `ExA1`, R141: skip if key not pressed. -/
  | sknp (x : RegIx)
  /-- `Ex??` with any other low byte, R147: no-op. -/
  | nopE (x : RegIx) (kk : Byte)
  /-- `Fx07`, R142: read the delay timer. -/
  | ldVxDT (x : RegIx)
  /-- `Fx0A`, R143: wait for a key. -/
  | ldVxK (x : RegIx)
  /-- `Fx15`, R145: arm the delay timer. -/
  | ldDTVx (x : RegIx)
  /-- `Fx18`, R146: arm the sound timer. -/
  | ldSTVx (x : RegIx)
  /-- `Fx1E`, 43_index_memory.md R121: add register to index. -/
  | addI (x : RegIx)
  /-- `Fx29`, R122: point index at font glyph. -/
  | ldF (x : RegIx)
  /-- `Fx33`, R123: store binary-coded decimal. -/
  | ldB (x : RegIx)
  /-- `Fx55`, R124: store `V[0]` to `V[x]`. -/
  | storeRegs (x : RegIx)
  /-- `Fx65`, R125: load `V[0]` to `V[x]`. -/
  | loadRegs (x : RegIx)
  /-- `Fx??` with any other low byte, 45_keys_timers.md R148: no-op. -/
  | nopF (x : RegIx) (kk : Byte)
deriving DecidableEq, Repr

end Sys2Proof
end

