-- ==== Sys2Proof/WellFormed.lean ====
section
/-!
DEFINITION. Which terms of Instr are instructions: the catch-all rows of the opcode map (0nnn and the three no-op classes)
hold only the words that no specific row of their family takes (30_encoding.md R65, R66, R69).
-/

namespace Sys2Proof

/-- The low nibbles of the nine defined `8xy?` instructions (R65). -/
def definedSub8 : List Nibble := [0x0#4, 0x1#4, 0x2#4, 0x3#4, 0x4#4, 0x5#4, 0x6#4, 0x7#4, 0xE#4]

/-- The low bytes of the two defined `Ex??` instructions (R65). -/
def definedSubE : List Byte := [0x9E#8, 0xA1#8]

/-- The low bytes of the nine defined `Fx??` instructions (R65). -/
def definedSubF : List Byte := [0x07#8, 0x0A#8, 0x15#8, 0x18#8, 0x1E#8, 0x29#8, 0x33#8, 0x55#8, 0x65#8]

/-- A term of Instr that some instruction word stands for (R66, R69). Every other constructor admits every value of
its fields (R63: "all 16 values are legal in every instruction that has the field"). -/
def Instr.wf : Instr → Bool
  | .sys nnn => nnn != 0x0E0#12 && nnn != 0x0EE#12
  | .nop8 _ _ n => !definedSub8.contains n
  | .nopE _ kk => !definedSubE.contains kk
  | .nopF _ kk => !definedSubF.contains kk
  | .cls | .ret | .jp _ | .call _ | .seImm _ _ | .sneImm _ _ | .seReg _ _ _ | .ldImm _ _ | .addImm _ _
  | .ldReg _ _ | .orReg _ _ | .andReg _ _ | .xorReg _ _ | .addReg _ _ | .subReg _ _ | .shr _ _ | .subnReg _ _
  | .shl _ _ | .sneReg _ _ _ | .ldI _ | .jpV0 _ | .rnd _ _ | .drw _ _ _ | .skp _ | .sknp _ | .ldVxDT _
  | .ldVxK _ | .ldDTVx _ | .ldSTVx _ | .addI _ | .ldF _ | .ldB _ | .storeRegs _ | .loadRegs _ => true

end Sys2Proof
end

