-- ==== Sys2Proof/Decode.lean ====
section
/-!
DEFINITION. The decoder and the encoder. Decoding follows 30_encoding.md R64: the family by the top nibble, then family 0 by
the whole word, family 8 by the low nibble, families E and F by the low byte; every other family is one instruction. The
decoder rejects by name, but no whole word is rejected (R67).
-/

namespace Sys2Proof

/-- `op = w[15:12]`, the top nibble, selects the family (R61). -/
def fieldOp (w : Word) : Nibble := w.extractLsb' 12 4

/-- `x = w[11:8]` (R61). -/
def fieldX (w : Word) : RegIx := w.extractLsb' 8 4

/-- `y = w[7:4]` (R61). -/
def fieldY (w : Word) : RegIx := w.extractLsb' 4 4

/-- `n = w[3:0]` (R61). -/
def fieldN (w : Word) : Nibble := w.extractLsb' 0 4

/-- `kk = w[7:0]` (R61). -/
def fieldKK (w : Word) : Byte := w.extractLsb' 0 8

/-- `nnn = w[11:0]` (R61). -/
def fieldNNN (w : Word) : Addr := w.extractLsb' 0 12

/-- Why the decoder gives no instruction. -/
inductive DecodeReject where
  /-- Fewer than the two bytes of an instruction word (20_memory.md R43, R44). -/
  | truncated
  /-- "top nibble matches no defined family" (30_encoding.md R67): no word is rejected so. -/
  | undefinedFamily
deriving DecidableEq, Repr

/-- Family 0: two whole words, and the jump `0nnn` for every other (R64, R69). -/
def decodeFamily0 (w : Word) : Instr :=
  if w = 0x00E0#16 then .cls else if w = 0x00EE#16 then .ret else .sys (fieldNNN w)

/-- Family 8, by the low nibble (R64, R66). -/
def decodeFamily8 (w : Word) : Instr :=
  let x := fieldX w
  let y := fieldY w
  match fieldN w with
  | 0x0#4 => .ldReg x y
  | 0x1#4 => .orReg x y
  | 0x2#4 => .andReg x y
  | 0x3#4 => .xorReg x y
  | 0x4#4 => .addReg x y
  | 0x5#4 => .subReg x y
  | 0x6#4 => .shr x y
  | 0x7#4 => .subnReg x y
  | 0xE#4 => .shl x y
  | n => .nop8 x y n

/-- Family E, by the low byte (R64, R66). -/
def decodeFamilyE (w : Word) : Instr :=
  let x := fieldX w
  match fieldKK w with
  | 0x9E#8 => .skp x
  | 0xA1#8 => .sknp x
  | kk => .nopE x kk

/-- Family F, by the low byte (R64, R66). -/
def decodeFamilyF (w : Word) : Instr :=
  let x := fieldX w
  match fieldKK w with
  | 0x07#8 => .ldVxDT x
  | 0x0A#8 => .ldVxK x
  | 0x15#8 => .ldDTVx x
  | 0x18#8 => .ldSTVx x
  | 0x1E#8 => .addI x
  | 0x29#8 => .ldF x
  | 0x33#8 => .ldB x
  | 0x55#8 => .storeRegs x
  | 0x65#8 => .loadRegs x
  | kk => .nopF x kk

/-- The instruction a word stands for (R64, R65); `none` is the decode fault of a top nibble without a family, which no
word has (R67). -/
def decodeWord (w : Word) : Option Instr :=
  match fieldOp w with
  | 0x0#4 => some (decodeFamily0 w)
  | 0x1#4 => some (.jp (fieldNNN w))
  | 0x2#4 => some (.call (fieldNNN w))
  | 0x3#4 => some (.seImm (fieldX w) (fieldKK w))
  | 0x4#4 => some (.sneImm (fieldX w) (fieldKK w))
  | 0x5#4 => some (.seReg (fieldX w) (fieldY w) (fieldN w))
  | 0x6#4 => some (.ldImm (fieldX w) (fieldKK w))
  | 0x7#4 => some (.addImm (fieldX w) (fieldKK w))
  | 0x8#4 => some (decodeFamily8 w)
  | 0x9#4 => some (.sneReg (fieldX w) (fieldY w) (fieldN w))
  | 0xA#4 => some (.ldI (fieldNNN w))
  | 0xB#4 => some (.jpV0 (fieldNNN w))
  | 0xC#4 => some (.rnd (fieldX w) (fieldKK w))
  | 0xD#4 => some (.drw (fieldX w) (fieldY w) (fieldN w))
  | 0xE#4 => some (decodeFamilyE w)
  | 0xF#4 => some (decodeFamilyF w)
  | _ => none

/-- The instruction word of two bytes, big-endian: the byte at the lower address is bits 15 to 8 (20_memory.md R43). -/
def composeWord (b0 b1 : Byte) : Word := b0 ++ b1

/-- The byte of an instruction word at the lower address (R43). -/
def highByte (w : Word) : Byte := w.extractLsb' 8 8

/-- The byte of an instruction word at the higher address (R43). -/
def lowByte (w : Word) : Byte := w.extractLsb' 0 8

/-- Decode the first instruction of a byte sequence and return the rest (R60: two bytes, one length only). -/
def decodeBytes : List Byte → Except DecodeReject (Instr × List Byte)
  | b0 :: b1 :: rest =>
    match decodeWord (composeWord b0 b1) with
    | some i => .ok (i, rest)
    | none => .error .undefinedFamily
  | _ => .error .truncated

/-- The host's question: the instruction read from a word whose bits are numbered as opcode_table.json numbers them (bit 0
least significant), laid out in memory as the hardware stores it, high byte first (R43). -/
def decodeTableWord (nbits w : Nat) : Option Instr :=
  let word : Word := BitVec.ofNat 16 (w % 2 ^ nbits)
  match decodeBytes [highByte word, lowByte word] with
  | .ok (i, _) => some i
  | .error _ => none

/-! ## The encoder -/

/-- Format NNN of R62: `op` then `nnn`. -/
def wordNNN (op : Nibble) (nnn : Addr) : Word := op ++ nnn

/-- Formats XKK and XSS of R62: `op`, `x`, then an immediate or sub-opcode byte. -/
def wordXKK (op : Nibble) (x : RegIx) (kk : Byte) : Word := op ++ (x ++ kk)

/-- Format XYN of R62: `op`, `x`, `y`, `n`. -/
def wordXYN (op : Nibble) (x y : RegIx) (n : Nibble) : Word := op ++ (x ++ (y ++ n))

/-- The word of an instruction (R65). -/
def encode : Instr → Word
  | .cls => 0x00E0#16
  | .ret => 0x00EE#16
  | .sys nnn => wordNNN 0x0#4 nnn
  | .jp nnn => wordNNN 0x1#4 nnn
  | .call nnn => wordNNN 0x2#4 nnn
  | .seImm x kk => wordXKK 0x3#4 x kk
  | .sneImm x kk => wordXKK 0x4#4 x kk
  | .seReg x y n => wordXYN 0x5#4 x y n
  | .ldImm x kk => wordXKK 0x6#4 x kk
  | .addImm x kk => wordXKK 0x7#4 x kk
  | .ldReg x y => wordXYN 0x8#4 x y 0x0#4
  | .orReg x y => wordXYN 0x8#4 x y 0x1#4
  | .andReg x y => wordXYN 0x8#4 x y 0x2#4
  | .xorReg x y => wordXYN 0x8#4 x y 0x3#4
  | .addReg x y => wordXYN 0x8#4 x y 0x4#4
  | .subReg x y => wordXYN 0x8#4 x y 0x5#4
  | .shr x y => wordXYN 0x8#4 x y 0x6#4
  | .subnReg x y => wordXYN 0x8#4 x y 0x7#4
  | .shl x y => wordXYN 0x8#4 x y 0xE#4
  | .nop8 x y n => wordXYN 0x8#4 x y n
  | .sneReg x y n => wordXYN 0x9#4 x y n
  | .ldI nnn => wordNNN 0xA#4 nnn
  | .jpV0 nnn => wordNNN 0xB#4 nnn
  | .rnd x kk => wordXKK 0xC#4 x kk
  | .drw x y n => wordXYN 0xD#4 x y n
  | .skp x => wordXKK 0xE#4 x 0x9E#8
  | .sknp x => wordXKK 0xE#4 x 0xA1#8
  | .nopE x kk => wordXKK 0xE#4 x kk
  | .ldVxDT x => wordXKK 0xF#4 x 0x07#8
  | .ldVxK x => wordXKK 0xF#4 x 0x0A#8
  | .ldDTVx x => wordXKK 0xF#4 x 0x15#8
  | .ldSTVx x => wordXKK 0xF#4 x 0x18#8
  | .addI x => wordXKK 0xF#4 x 0x1E#8
  | .ldF x => wordXKK 0xF#4 x 0x29#8
  | .ldB x => wordXKK 0xF#4 x 0x33#8
  | .storeRegs x => wordXKK 0xF#4 x 0x55#8
  | .loadRegs x => wordXKK 0xF#4 x 0x65#8
  | .nopF x kk => wordXKK 0xF#4 x kk

end Sys2Proof
end

