-- ==== Sys2Proof/Config.lean ====
section
/-!
DEFINITION. What is fixed for one machine and what nothing fixes: the sizes of 00_scope.md R5, the parameters of R6, and the
free values, which have no body, so that no proof can see what they are.
-/

namespace Sys2Proof

/-- The number of memory cells (00_scope.md R5, 10_state.md R20). -/
abbrev Config.memorySize : Nat := 4096

/-- `GLYPH_SIZE`, the bytes of one font glyph (R5). -/
abbrev Config.glyphSize : Nat := 5

/-- The timer rate, in ticks per second (R5, 10_state.md R32). -/
abbrev Config.timerRate : Nat := 60

/-- The parameters of the reset operation (00_scope.md R6, 70_reset_and_hazards.md R190). -/
structure Params where
  /-- `PROGRAM_START`. -/
  programStart : Nat
  /-- `FONT`, glyph `d` at offset `5 * d`. -/
  font : Vector Byte 80
  /-- `PROGRAM`, the program image. -/
  program : List Byte
  /-- `TIME_HZ`, the units of `now` in one second. -/
  timeHz : Nat
deriving DecidableEq, Repr

/-- FREE VALUE (log 1): the time, in units of `now`, that passes before the step that draws the `k`-th free input. Any
natural number, so that `now` never decreases and is under no other law (10_state.md R33, 70_reset_and_hazards.md R211). -/
opaque Config.freeElapsed : Nat → Nat

/-- FREE VALUE (log 1): the contents of the key latch at the step that draws the `k`-th free input. Any pattern
(70_reset_and_hazards.md R202). -/
opaque Config.freeKeys : Nat → Vector Bool 16

/-- FREE VALUE (log 1): the random byte of the step that draws the `k`-th free input. Any byte (10_state.md R34). -/
opaque Config.freeRandomByte : Nat → Byte

end Sys2Proof
end

