-- ==== Sys2Proof/Machine/State.lean ====
section
/-!
DEFINITION. The state of the machine, whole (10_state.md R10), as plain data; the reasons a step could stop; the state after
reset with the default parameters (R35).
-/

namespace Sys2Proof.Machine

/-- A countdown timer (10_state.md R19): the value last written, whether a timestamp is recorded, and the timestamp. -/
structure Timer where
  stored  : Byte
  armed   : Bool
  armedAt : Nat
deriving DecidableEq, Repr

/-- The fault record (10_state.md R25; `info` is 32 bits wide, 90_conflicts.md C13). -/
structure FaultRecord where
  cause : BitVec 8
  addr  : Word
  word  : Word
  info  : BitVec 32
deriving DecidableEq, Repr

/-- What the surroundings supply for one step: the time since the step before (so that `now` never decreases, R33), the
contents of the key latch during the step (R24, 70_reset_and_hazards.md R202, log 23), and the random byte (R34). -/
structure StepInput where
  elapsed : Nat
  key     : Vector Bool 16
  rnd     : Byte
deriving DecidableEq, Repr

/-- The sixteen general registers (R11). -/
abbrev Regs := Vector Byte 16

/-- Memory in canonical form (`Memory.wf` in Machine/Ops.lean): addresses strictly rising, no cell equal to what an unlisted
address reads as. -/
abbrev Memory := List Host.Cell

/-- The framebuffer: 32 rows, top first, of 64 pixels, left first (R23). -/
abbrev Framebuffer := Vector (Vector Bool 64) 32

/-- The whole state. The fields up to `fault` are the architectural state of 10_state.md R10; the last five are the model's
own and hold the inputs and the one parameter of a step (R29), logs 1, 2 and 6. -/
structure State where
  /-- `V[0]` to `V[15]`; `V[15]` is the flag VF (R11, R12). -/
  V       : Regs
  /-- The index register (R13). -/
  I       : Word
  /-- The program counter (R14). -/
  pc      : Word
  /-- The call stack (R17). -/
  stack   : Vector Word 16
  /-- The stack pointer, 0 to 16 (R18). -/
  sp      : Fin 17
  /-- The delay timer (R19). -/
  DT      : Timer
  /-- The sound timer (R19). -/
  ST      : Timer
  /-- The 4096 memory cells (R20). -/
  mem     : Memory
  /-- The framebuffer (R23). -/
  fb      : Framebuffer
  /-- The input latch (R24). -/
  key     : Vector Bool 16
  /-- The halt bit (R25). -/
  halted  : Bool
  /-- The fault record (R25). -/
  fault   : FaultRecord
  /-- The model's own: the time sample of the last step (R33). -/
  now     : Nat
  /-- The model's own: the random sample of the last step (R34). -/
  rnd     : Byte
  /-- The model's own: the inputs of the coming steps, the next one first. -/
  inputs  : List StepInput
  /-- The model's own: how many free inputs have been drawn. -/
  draws   : Nat
  /-- The model's own: the parameter `TIME_HZ` (00_scope.md R6). -/
  timeHz  : Nat
deriving DecidableEq, Repr

/-- Why the machine model would stop with a fault of Host.Outcome. It has no constructor: a step "always completes"
(70_reset_and_hazards.md R201), and a fatal error of the hardware is a NEXT state in which `halted` is set and the fault
record written (60_exceptions.md R163), logs 7 and 29. Nothing raises it; that is safe. -/
inductive Fault where
deriving DecidableEq, Repr

/-- Why the machine model gives no meaning. -/
inductive Refusal where
  /-- An instruction without a meaning yet, by its mnemonic. Raised by no instruction: every arm of `exec` has its meaning.
  Safe. -/
  | notModelled (mnemonic : String)
  /-- "a reset with PROGRAM_START + PROGRAM_LEN > 4096 is refused" (70_reset_and_hazards.md R196, log 21). Raised by the reset
  operation only. Safe. -/
  | imageTooLong
  /-- A parameter outside its legal range: `PROGRAM_START` outside 0x200 to 0xFFF or `TIME_HZ` zero (00_scope.md R6, log 6).
  Raised by the reset operation only. Safe. -/
  | illegalParameter
deriving DecidableEq, Repr

/-- A timer no timestamp is recorded for (R35). -/
def Timer.unarmed : Timer := { stored := 0, armed := false, armedAt := 0 }

/-- The fault record while no fault has been raised: all fields 0 (R25, R35). -/
def FaultRecord.none : FaultRecord := { cause := 0, addr := 0, word := 0, info := 0 }

/-- The state right after reset (10_state.md R35) with the default parameters of 00_scope.md R6: `PROGRAM_START` 0x200, the
default `FONT`, an empty program image, `TIME_HZ` 60. No memory cell is listed, because an unlisted cell reads as its reset
contents. The values of the model's own fields are DESIGN CHOICES (log 2). -/
def State.reset : State where
  V       := Vector.replicate 16 0
  I       := 0
  pc      := 0x200
  stack   := Vector.replicate 16 0
  sp      := 0
  DT      := Timer.unarmed
  ST      := Timer.unarmed
  mem     := []
  fb      := Vector.replicate 32 (Vector.replicate 64 false)
  key     := Vector.replicate 16 false
  halted  := false
  fault   := FaultRecord.none
  now     := 0
  rnd     := 0
  inputs  := []
  draws   := 0
  timeHz  := 60

end Sys2Proof.Machine
end

