-- ==== Sys2Proof/Machine/Font.lean ====
section
/-!
DEFINITION. The default value of the parameter FONT (10_state.md R22) and the default parameters (00_scope.md R6).
PRESUMED (log 5): the 80 bytes are "from general knowledge, not in source".
-/

namespace Sys2Proof.Machine

/-- Glyphs 0 to 7 of R22, top row first. -/
def fontLow : List Byte :=
  [0xF0, 0x90, 0x90, 0x90, 0xF0] ++ [0x20, 0x60, 0x20, 0x20, 0x70] ++
  [0xF0, 0x10, 0xF0, 0x80, 0xF0] ++ [0xF0, 0x10, 0xF0, 0x10, 0xF0] ++
  [0x90, 0x90, 0xF0, 0x10, 0x10] ++ [0xF0, 0x80, 0xF0, 0x10, 0xF0] ++
  [0xF0, 0x80, 0xF0, 0x90, 0xF0] ++ [0xF0, 0x10, 0x20, 0x40, 0x40]

/-- Glyphs 8 to F of R22, top row first. -/
def fontHigh : List Byte :=
  [0xF0, 0x90, 0xF0, 0x90, 0xF0] ++ [0xF0, 0x90, 0xF0, 0x10, 0xF0] ++
  [0xF0, 0x90, 0xF0, 0x90, 0x90] ++ [0xE0, 0x90, 0xE0, 0x90, 0xE0] ++
  [0xF0, 0x80, 0x80, 0x80, 0xF0] ++ [0xE0, 0x90, 0x90, 0x90, 0xE0] ++
  [0xF0, 0x80, 0xF0, 0x80, 0xF0] ++ [0xF0, 0x80, 0xF0, 0x80, 0x80]

/-- The default `FONT` as a list of 80 bytes (R22). -/
def defaultFontBytes : List Byte := fontLow ++ fontHigh

/-- The default `FONT` (R22). -/
def defaultFont : Vector Byte 80 := ⟨defaultFontBytes.toArray, by decide⟩

/-- The default parameters of a reset (00_scope.md R6); an empty image is legal (70_reset_and_hazards.md R196). -/
def defaultParams : Params :=
  { programStart := 0x200, font := defaultFont, program := [], timeHz := 60 }

end Sys2Proof.Machine
end

