-- ==== Sys2Proof/Machine/Ops.lean ====
section
/-!
DEFINITION. The named operations over memory, registers, stack, framebuffer, timers and latch, and taking a fault. Every
instruction's meaning is written over these.
-/

namespace Sys2Proof.Machine

/-! ## Memory (20_memory.md R40, R41, R47) -/

/-- What an unlisted address reads as: its contents after a reset with the default parameters and an empty image, the font at
0x000 to 0x04F and 0 elsewhere (10_state.md R21, R35; logs 4, 5). -/
def Memory.unlisted (a : Nat) : Byte := defaultFontBytes.getD a 0

/-- The canonical form: addresses strictly rising and below 4096, no cell equal to what its address reads as unlisted. -/
abbrev Memory.wf (m : Memory) : Prop :=
  m.Pairwise (fun c d => c.1 < d.1) ∧ ∀ c ∈ m, c.1 < Config.memorySize ∧ c.2 ≠ Memory.unlisted c.1

/-- `mem[a]`. Callers have checked `a ≤ 0xFFF` (R41, R42, R44). -/
def Memory.read : Memory → Nat → Byte
  | [], a => Memory.unlisted a
  | c :: rest, a => if c.1 = a then c.2 else Memory.read rest a

/-- `mem[a] <- v`, keeping the canonical form: a cell that would hold what its address reads as unlisted is not listed. Callers
have checked `a ≤ 0xFFF`. -/
def Memory.write : Memory → Nat → Byte → Memory
  | [], a, v => if v = Memory.unlisted a then [] else [(a, v)]
  | c :: rest, a, v =>
    if a < c.1 then (if v = Memory.unlisted a then c :: rest else (a, v) :: c :: rest)
    else if c.1 = a then (if v = Memory.unlisted a then rest else (a, v) :: rest)
    else c :: Memory.write rest a v

/-- The bytes `mem[a]` to `mem[a + n - 1]` in ascending order (R40). -/
def Memory.readBytes (m : Memory) (a n : Nat) : List Byte := (List.range n).map (fun k => m.read (a + k))

/-- Store a byte sequence from address `a` on, in ascending order (R40). -/
def Memory.writeBytes (m : Memory) (a : Nat) : List Byte → Memory
  | [] => m
  | b :: bs => Memory.writeBytes (Memory.write m a b) (a + 1) bs

/-! ## Registers, index, program counter (10_state.md R11, R13, R14) -/

/-- `V[r]`. -/
def State.reg (s : State) (r : RegIx) : Byte := s.V[r.toNat]'r.isLt

/-- `V[r] <- v`. -/
def State.setReg (s : State) (r : RegIx) (v : Byte) : State := { s with V := s.V.set r.toNat v r.isLt }

/-- The number of VF, the flag register (R12). -/
abbrev regVF : RegIx := 0xF

/-- Write the result, then the flag: for the destination VF the flag stands (00_scope.md R9, 10_state.md R26, log 9). -/
def State.setResultThenFlag (s : State) (x : RegIx) (result flag : Byte) : State := (s.setReg x result).setReg regVF flag

/-- Write the flag, then the result: for the destination VF the result stands (R9, R26, log 9). -/
def State.setFlagThenResult (s : State) (x : RegIx) (flag result : Byte) : State := (s.setReg regVF flag).setReg x result

/-- `V[0]` to `V[count - 1]` replaced by the bytes from `base` on (43_index_memory.md R125). -/
def State.loadBlock (s : State) (base count : Nat) : State :=
  { s with V := Vector.ofFn (fun k : Fin 16 => if k.val < count then s.mem.read (base + k.val) else s.V[k]) }

/-- `V[0]` to `V[count - 1]`, in this order (R124). -/
def State.firstRegs (s : State) (count : Nat) : List Byte := s.V.toList.take count

/-- `I <- v`. -/
def State.setI (s : State) (v : Word) : State := { s with I := v }

/-- `pc <- target`: a control transfer (40_control_transfer.md R85). -/
def State.setPc (s : State) (target : Word) : State := { s with pc := target }

/-- The generic advance of `pc` past the fetched word, before dispatch (R14, 20_memory.md R43); also what a skip adds
(41_skips.md R94). -/
def State.advance (s : State) : State := { s with pc := s.pc + 2 }

/-- A step back to the instruction itself (45_keys_timers.md R143). -/
def State.stepBack (s : State) : State := { s with pc := s.pc - 2 }

/-- Skip the next instruction when the condition holds (R94). -/
def State.skipIf (s : State) (c : Bool) : State := if c then s.advance else s

/-- Store a byte sequence in memory from address `a` on, the font region included (20_memory.md R49, log 18). -/
def State.store (s : State) (a : Nat) (bs : List Byte) : State := { s with mem := s.mem.writeBytes a bs }

/-! ## Framebuffer (10_state.md R23, 44_display.md R131) -/

/-- `fb[r][c]`. -/
def Framebuffer.pixel (f : Framebuffer) (r : Fin 32) (c : Fin 64) : Bool := (f[r])[c]

/-- `fb[r][c] <- b`. -/
def Framebuffer.setPixel (f : Framebuffer) (r : Fin 32) (c : Fin 64) (b : Bool) : Framebuffer := f.set r (f[r].set c b)

/-- A framebuffer with every pixel off (R130). -/
def Framebuffer.blank : Framebuffer := Vector.replicate 32 (Vector.replicate 64 false)

/-- A row number modulo 32 (R131). -/
def wrapRow (r : Nat) : Fin 32 := ⟨r % 32, Nat.mod_lt r (by decide)⟩

/-- A column number modulo 64 (R131). -/
def wrapCol (c : Nat) : Fin 64 := ⟨c % 64, Nat.mod_lt c (by decide)⟩

/-- Toggle one pixel; record a hit when it was on (R131). -/
def togglePixel (r : Fin 32) (c : Fin 64) (d : Framebuffer × Bool) : Framebuffer × Bool :=
  (d.1.setPixel r c (!d.1.pixel r c), d.2 || d.1.pixel r c)

/-- The inner loop of R131: columns 0 to 7 of one sprite byte, bit 7 leftmost (log 19), from column `cx` of row `r`. -/
def drawByte (b : Byte) (cx r : Nat) (d : Framebuffer × Bool) : Framebuffer × Bool :=
  (List.range 8).foldl
    (fun d col => if b.getLsbD (7 - col) then togglePixel (wrapRow r) (wrapCol (cx + col)) d else d) d

/-- The outer loop of R131: the sprite's rows from the top, the first at row `cy`. -/
def drawRows (cx : Nat) : (cy : Nat) → List Byte → Framebuffer × Bool → Framebuffer × Bool
  | _, [], d => d
  | cy, b :: bs, d => drawRows cx (cy + 1) bs (drawByte b cx cy d)

/-- `fb <- f`. -/
def State.setFb (s : State) (f : Framebuffer) : State := { s with fb := f }

/-! ## Timers (10_state.md R19, R30 to R32) -/

/-- `Ticks(d) = floor(d * 60 / TIME_HZ)` (R32). -/
def ticks (timeHz d : Nat) : Nat := d * Config.timerRate / timeHz

/-- `TimerValue(T, t)` (R30): 0 if unarmed, otherwise the stored value less the elapsed ticks, at least 0. Subtraction of
natural numbers is the rule's `max(0, …)`, both times. -/
def Timer.value (timeHz : Nat) (T : Timer) (t : Nat) : Byte :=
  if T.armed then BitVec.ofNat 8 (T.stored.toNat - ticks timeHz (t - T.armedAt)) else 0

/-- Arming a timer at time `t` with value `v` (R31). -/
def Timer.arm (v : Byte) (t : Nat) : Timer := { stored := v, armed := true, armedAt := t }

/-! ## Call stack (10_state.md R17, R18) -/

/-- Push a return address; the caller has checked that the stack is not full. -/
def State.push (s : State) (v : Word) (h : s.sp.val < 16) : State :=
  { s with stack := s.stack.set s.sp.val v h, sp := ⟨s.sp.val + 1, Nat.succ_lt_succ h⟩ }

/-- Pop a return address into `pc`; the entry stays in the stack (R17). The caller has checked that the stack is not empty. -/
def State.popPc (s : State) (h : 0 < s.sp.val) : State :=
  { s with
    pc := s.stack[s.sp.val - 1]'(by have := s.sp.isLt; omega)
    sp := ⟨s.sp.val - 1, by have := s.sp.isLt; omega⟩ }

/-! ## Taking a fault (60_exceptions.md R161, R163)

There is no return from a fault and no instruction that resumes after one (R165): the only way back is the reset operation,
`State.resetWith` in Machine/Ports.lean. -/

/-- The causes of R161. -/
inductive FaultCause where
  | decodeFault | stackOverflow | stackUnderflow | fetchBoundsFault | boundsFault | keyIndexFault
deriving DecidableEq, Repr

/-- The code stored in `fault.cause` (R161). -/
def FaultCause.code : FaultCause → BitVec 8
  | .decodeFault => 1
  | .stackOverflow => 2
  | .stackUnderflow => 3
  | .fetchBoundsFault => 4
  | .boundsFault => 5
  | .keyIndexFault => 6

/-- TAKING A FAULT (R163): the record is written and `halted` set; everything else keeps its value, `pc` included. -/
def State.takeFault (s : State) (cause : FaultCause) (addr word : Word) (info : Nat) : State :=
  { s with halted := true, fault := { cause := cause.code, addr := addr, word := word, info := BitVec.ofNat 32 info } }

/-- A fault of an instruction being executed: `fault.addr` is the address it was fetched from, two below the advanced `pc`
(R161, R163; log 8), `fault.word` its word. -/
def State.raise (s : State) (cause : FaultCause) (word : Word) (info : Nat) : State :=
  s.takeFault cause (s.pc - 2) word info

/-! ## Instruction fetch (20_memory.md R43, R44) -/

/-- The word at `pc`, odd or even, big-endian, or nothing when one of its two bytes lies beyond 0xFFF (log 12). -/
def State.fetch (s : State) : Option Word :=
  if s.pc.toNat ≤ 0xFFE then some (composeWord (s.mem.read s.pc.toNat) (s.mem.read (s.pc.toNat + 1))) else none

/-- The state with an instruction word stored at `pc`, where the next step fetches; unchanged when nothing can be fetched from
`pc` (R44). -/
def State.placeWord (s : State) (w : Word) : State :=
  if s.pc.toNat ≤ 0xFFE then s.store s.pc.toNat [highByte w, lowByte w] else s

end Sys2Proof.Machine
end

