-- ==== Sys2Proof/Machine/Operands.lean ====
section
/-!
DEFINITION. How instructions turn fields and register values into operands: addresses, address ranges, digits, key codes.
-/

namespace Sys2Proof.Machine

/-- `nnn` as it stands, zero-extended into a 16-bit register (30_encoding.md R63). -/
def addrOperand (nnn : Addr) : Word := nnn.setWidth 16

/-- `V[0] + nnn`, an 8-bit and a 12-bit value in the 16-bit `pc`, never reduced (40_control_transfer.md R84). -/
def offsetTarget (v0 : Byte) (nnn : Addr) : Word := v0.setWidth 16 + nnn.setWidth 16

/-- `(i0 + a) mod 65536` (43_index_memory.md R121, log 15). -/
def indexSum (i0 : Word) (a : Byte) : Word := i0 + a.setWidth 16

/-- `5 * a`, on the whole 8-bit value (R122, log 16). -/
def glyphAddress (a : Byte) : Word := BitVec.ofNat 16 (Config.glyphSize * a.toNat)

/-- The decimal digits of a byte: hundreds, tens, ones (R123). -/
def bcdDigits (a : Byte) : List Byte :=
  [BitVec.ofNat 8 (a.toNat / 100), BitVec.ofNat 8 (a.toNat / 10 % 10), BitVec.ofNat 8 (a.toNat % 10)]

/-- `CheckRange(base, count)` (00_scope.md R8, 20_memory.md R42): the highest address of the range if it lies beyond 0xFFF,
unreduced; nothing if the range is inside memory or empty. -/
def rangeFault (base : Word) (count : Nat) : Option Nat :=
  if 0 < count ∧ 0xFFF < base.toNat + count - 1 then some (base.toNat + count - 1) else none

/-- Check the range of `count` bytes at `I`, then act: the fault is raised before any effect (20_memory.md R42, log 13). -/
def State.withRange (s : State) (count : Nat) (word : Word) (act : State) : State :=
  match rangeFault s.I count with
  | some top => s.raise .boundsFault word top
  | none => act

/-- A register value as a key code, 0 to 15 (10_state.md R24, 45_keys_timers.md R140). -/
def keyCode (a : Byte) : Option (Fin 16) := if h : a.toNat < 16 then some ⟨a.toNat, h⟩ else none

/-- Check that the value is a key code, then act on the key (45_keys_timers.md R140, R141; log 14). -/
def State.withKey (s : State) (a : Byte) (word : Word) (act : Fin 16 → State) : State :=
  match keyCode a with
  | some k => act k
  | none => s.raise .keyIndexFault word a.toNat

/-- `min { k : key[k] = 1 }`, if any key is pressed (R143). -/
def lowestPressed (key : Vector Bool 16) : Option (Fin 16) := (List.finRange 16).find? (fun k => key[k])

end Sys2Proof.Machine
end

