-- ==== Sys2Proof/Machine/Flags.lean ====
section
/-!
DEFINITION. Every computation of the flag VF (10_state.md R12; 42_register_alu.md R106 to R110, R113).
-/

namespace Sys2Proof.Machine

/-- A flag as the value written to VF: 1 or 0 (10_state.md R12). -/
def flagByte (b : Bool) : Byte := if b then 1 else 0

/-- The carry out of bit 7 of an addition (R106). -/
def carryOut (a b : Byte) : Bool := decide (256 ≤ a.toNat + b.toNat)

/-- No borrow occurs: minuend ≥ subtrahend (R107, R109; 90_conflicts.md C1, C2; log 10). -/
def noBorrow (minuend subtrahend : Byte) : Bool := decide (subtrahend.toNat ≤ minuend.toNat)

/-- The bit a right shift by one moves out, bit 0 (R108). -/
def shiftedOutLow (a : Byte) : Bool := a.getLsbD 0

/-- The bit a left shift by one moves out, bit 7 (R110). -/
def shiftedOutHigh (a : Byte) : Bool := a.getLsbD 7

end Sys2Proof.Machine
end

