-- ==== Sys2Proof/Machine/Alu.lean ====
section
/-!
DEFINITION. Register load, arithmetic, logic, shift and random instructions (42_register_alu.md R100 to R113). Operands are
read from the state before any write (00_scope.md R9).
-/

namespace Sys2Proof.Machine

/-- `6xkk` (R100). -/
def execLdImm (x : RegIx) (kk : Byte) (s : State) : Host.Outcome State Fault Refusal := .next (s.setReg x kk)

/-- `7xkk` (R101): no flag. -/
def execAddImm (x : RegIx) (kk : Byte) (s : State) : Host.Outcome State Fault Refusal := .next (s.setReg x (s.reg x + kk))

/-- `8xy0` (R102). -/
def execLdReg (x y : RegIx) (s : State) : Host.Outcome State Fault Refusal := .next (s.setReg x (s.reg y))

/-- `8xy1` (R103): no flag (log 24). -/
def execOrReg (x y : RegIx) (s : State) : Host.Outcome State Fault Refusal := .next (s.setReg x (s.reg x ||| s.reg y))

/-- `8xy2` (R104): no flag (log 24). -/
def execAndReg (x y : RegIx) (s : State) : Host.Outcome State Fault Refusal := .next (s.setReg x (s.reg x &&& s.reg y))

/-- `8xy3` (R105): no flag (log 24). -/
def execXorReg (x y : RegIx) (s : State) : Host.Outcome State Fault Refusal := .next (s.setReg x (s.reg x ^^^ s.reg y))

/-- `8xy4` (R106): the carry is written after the sum. -/
def execAddReg (x y : RegIx) (s : State) : Host.Outcome State Fault Refusal :=
  .next (s.setResultThenFlag x (s.reg x + s.reg y) (flagByte (carryOut (s.reg x) (s.reg y))))

/-- `8xy5` (R107): the no-borrow flag is written before the difference. -/
def execSubReg (x y : RegIx) (s : State) : Host.Outcome State Fault Refusal :=
  .next (s.setFlagThenResult x (flagByte (noBorrow (s.reg x) (s.reg y))) (s.reg x - s.reg y))

/-- `8xy6` (R108): by exactly one bit, `V[y]` takes no part. -/
def execShr (x _y : RegIx) (s : State) : Host.Outcome State Fault Refusal :=
  .next (s.setFlagThenResult x (flagByte (shiftedOutLow (s.reg x))) (s.reg x >>> 1))

/-- `8xy7` (R109). -/
def execSubnReg (x y : RegIx) (s : State) : Host.Outcome State Fault Refusal :=
  .next (s.setFlagThenResult x (flagByte (noBorrow (s.reg y) (s.reg x))) (s.reg y - s.reg x))

/-- `8xyE` (R110): by exactly one bit, `V[y]` takes no part. -/
def execShl (x _y : RegIx) (s : State) : Host.Outcome State Fault Refusal :=
  .next (s.setFlagThenResult x (flagByte (shiftedOutHigh (s.reg x))) (s.reg x <<< 1))

/-- `8xy?` undefined (R111): nothing. -/
def execNop8 (_x _y : RegIx) (_n : Nibble) (s : State) : Host.Outcome State Fault Refusal := .next s

/-- `Cxkk` (R112): the random input of this step under the mask. -/
def execRnd (x : RegIx) (kk : Byte) (s : State) : Host.Outcome State Fault Refusal := .next (s.setReg x (s.rnd &&& kk))

end Sys2Proof.Machine
end

