-- ==== Sys2Proof/Machine/Control.lean ====
section
/-!
DEFINITION. Control transfer (40_control_transfer.md R80 to R85). `pc` already holds the address of the next instruction when
a meaning runs (10_state.md R14). No transfer checks its target (R85).
-/

namespace Sys2Proof.Machine

/-- `00EE` (R80): underflow is checked before any write. -/
def execRet (s : State) : Host.Outcome State Fault Refusal :=
  .next (if h : 0 < s.sp.val then s.popPc h else s.raise .stackUnderflow (encode .ret) s.sp.val)

/-- `0nnn` (R81): a plain jump, no push. -/
def execSys (nnn : Addr) (s : State) : Host.Outcome State Fault Refusal := .next (s.setPc (addrOperand nnn))

/-- `1nnn` (R82). -/
def execJp (nnn : Addr) (s : State) : Host.Outcome State Fault Refusal := .next (s.setPc (addrOperand nnn))

/-- `2nnn` (R83): the pushed value is the address of the instruction after the call; overflow is checked before any write. -/
def execCall (nnn : Addr) (s : State) : Host.Outcome State Fault Refusal :=
  .next (if h : s.sp.val < 16 then (s.push s.pc h).setPc (addrOperand nnn)
    else s.raise .stackOverflow (encode (.call nnn)) s.sp.val)

/-- `Bnnn` (R84). -/
def execJpV0 (nnn : Addr) (s : State) : Host.Outcome State Fault Refusal := .next (s.setPc (offsetTarget (s.reg 0) nnn))

end Sys2Proof.Machine
end

