-- ==== Sys2Proof/Machine/Display.lean ====
section
/-!
DEFINITION. The display instructions and the sprite compositor (44_display.md R130 to R132).
-/

namespace Sys2Proof.Machine

/-- `00E0` (R130). -/
def execCls (s : State) : Host.Outcome State Fault Refusal := .next (s.setFb Framebuffer.blank)

/-- The framebuffer and the collision of a draw of `n` rows at column `V[x]`, row `V[y]`, from memory at `I` (R131). -/
def State.drawn (s : State) (x y : RegIx) (n : Nat) : Framebuffer × Bool :=
  drawRows (s.reg x).toNat (s.reg y).toNat (s.mem.readBytes s.I.toNat n) (s.fb, false)

/-- `Dxyn` (R131): VF is the collision flag and is written on every execution (log 20). -/
def execDrw (x y : RegIx) (n : Nibble) (s : State) : Host.Outcome State Fault Refusal :=
  .next (s.withRange n.toNat (encode (.drw x y n))
    ((s.setFb (s.drawn x y n.toNat).1).setReg regVF (flagByte (s.drawn x y n.toNat).2)))

end Sys2Proof.Machine
end

