-- ==== Sys2Proof/Machine/IndexMemory.lean ====
section
/-!
DEFINITION. Index register and memory instructions (43_index_memory.md R120 to R125). None but the three that load it
changes `I` (10_state.md R13, log 17).
-/

namespace Sys2Proof.Machine

/-- `Annn` (R120). -/
def execLdI (nnn : Addr) (s : State) : Host.Outcome State Fault Refusal := .next (s.setI (addrOperand nnn))

/-- `Fx1E` (R121): no flag, no fault. -/
def execAddI (x : RegIx) (s : State) : Host.Outcome State Fault Refusal := .next (s.setI (indexSum s.I (s.reg x)))

/-- `Fx29` (R122). -/
def execLdF (x : RegIx) (s : State) : Host.Outcome State Fault Refusal := .next (s.setI (glyphAddress (s.reg x)))

/-- `Fx33` (R123): hundreds at the lowest address. -/
def execLdB (x : RegIx) (s : State) : Host.Outcome State Fault Refusal :=
  .next (s.withRange 3 (encode (.ldB x)) (s.store s.I.toNat (bcdDigits (s.reg x))))

/-- `Fx55` (R124): `V[0]` at the lowest address. -/
def execStoreRegs (x : RegIx) (s : State) : Host.Outcome State Fault Refusal :=
  .next (s.withRange (x.toNat + 1) (encode (.storeRegs x)) (s.store s.I.toNat (s.firstRegs (x.toNat + 1))))

/-- `Fx65` (R125): `V[0]` from the lowest address. -/
def execLoadRegs (x : RegIx) (s : State) : Host.Outcome State Fault Refusal :=
  .next (s.withRange (x.toNat + 1) (encode (.loadRegs x)) (s.loadBlock s.I.toNat (x.toNat + 1)))

end Sys2Proof.Machine
end

