-- ==== Sys2Proof/Machine/KeysTimers.lean ====
section
/-!
DEFINITION. Key and timer instructions and the no-op encodings of families E and F (45_keys_timers.md R140 to R148).
-/

namespace Sys2Proof.Machine

/-- `Ex9E` (R140). -/
def execSkp (x : RegIx) (s : State) : Host.Outcome State Fault Refusal :=
  .next (s.withKey (s.reg x) (encode (.skp x)) (fun k => s.skipIf s.key[k]))

/-- `ExA1` (R141). -/
def execSknp (x : RegIx) (s : State) : Host.Outcome State Fault Refusal :=
  .next (s.withKey (s.reg x) (encode (.sknp x)) (fun k => s.skipIf (!s.key[k])))

/-- `Ex??` undefined (R147): nothing. -/
def execNopE (_x : RegIx) (_kk : Byte) (s : State) : Host.Outcome State Fault Refusal := .next s

/-- `Fx07` (R142): the value of the delay timer at the step's time sample. -/
def execLdVxDT (x : RegIx) (s : State) : Host.Outcome State Fault Refusal :=
  .next (s.setReg x (s.DT.value s.timeHz s.now))

/-- `Fx0A` (R143, R144): the lowest pressed key, or the same instruction again. -/
def execLdVxK (x : RegIx) (s : State) : Host.Outcome State Fault Refusal :=
  .next (match lowestPressed s.key with
    | some k => s.setReg x (BitVec.ofNat 8 k.val)
    | none => s.stepBack)

/-- `Fx15` (R145). -/
def execLdDTVx (x : RegIx) (s : State) : Host.Outcome State Fault Refusal :=
  .next { s with DT := Timer.arm (s.reg x) s.now }

/-- `Fx18` (R146). -/
def execLdSTVx (x : RegIx) (s : State) : Host.Outcome State Fault Refusal :=
  .next { s with ST := Timer.arm (s.reg x) s.now }

/-- `Fx??` undefined (R148): nothing. -/
def execNopF (_x : RegIx) (_kk : Byte) (s : State) : Host.Outcome State Fault Refusal := .next s

end Sys2Proof.Machine
end

