-- ==== Sys2Proof/Machine/Skips.lean ====
section
/-!
DEFINITION. The skips on registers (41_skips.md R90 to R94).
-/

namespace Sys2Proof.Machine

/-- `3xkk` (R90). -/
def execSeImm (x : RegIx) (kk : Byte) (s : State) : Host.Outcome State Fault Refusal := .next (s.skipIf (s.reg x == kk))

/-- `4xkk` (R91). -/
def execSneImm (x : RegIx) (kk : Byte) (s : State) : Host.Outcome State Fault Refusal := .next (s.skipIf (s.reg x != kk))

/-- `5xy0` (R92); `n` is ignored (30_encoding.md R68, log 11). -/
def execSeReg (x y : RegIx) (_n : Nibble) (s : State) : Host.Outcome State Fault Refusal := .next (s.skipIf (s.reg x == s.reg y))

/-- `9xy0` (R93); `n` is ignored (R68, log 11). -/
def execSneReg (x y : RegIx) (_n : Nibble) (s : State) : Host.Outcome State Fault Refusal := .next (s.skipIf (s.reg x != s.reg y))

end Sys2Proof.Machine
end

