-- ==== Sys2Proof/Machine/Ports.lean ====
section
/-!
DEFINITION. The interfaces of the block (70_reset_and_hazards.md R190 to R207): reset and program load, the inputs of a step,
and the read ports of the host. No read port changes anything.
-/

namespace Sys2Proof.Machine

/-- The parameters a reset accepts (00_scope.md R6): `PROGRAM_START` in 0x200 to 0xFFF, `TIME_HZ` positive. -/
abbrev legalParams (p : Params) : Prop := 0x200 ≤ p.programStart ∧ p.programStart ≤ 0xFFF ∧ 0 < p.timeHz

/-- Memory after reset (R191): `FONT` from 0, then `PROGRAM` from `PROGRAM_START`, 0 elsewhere. -/
def resetMemory (p : Params) : Memory :=
  (Memory.writeBytes [] 0 p.font.toList).writeBytes p.programStart p.program

/-- Reset and program load (R190 to R192, R196): refused when the image does not fit (log 21) or a parameter is illegal;
otherwise every piece of state at its reset value, whatever the state before. -/
def State.resetWith (p : Params) : Host.Outcome State Fault Refusal :=
  if Config.memorySize < p.programStart + p.program.length then .refused .imageTooLong
  else if legalParams p then
    .next { State.reset with pc := BitVec.ofNat 16 p.programStart, mem := resetMemory p, timeHz := p.timeHz }
  else .refused .illegalParameter

/-- The input of the next step: the next one of the list, or a free one when the list is exhausted (log 1). -/
def State.nextInput (s : State) : StepInput :=
  match s.inputs with
  | i :: _ => i
  | [] => { elapsed := Config.freeElapsed s.draws, key := Config.freeKeys s.draws, rnd := Config.freeRandomByte s.draws }

/-- What the surroundings do between two steps (R201, R202, R205): time passes, the event source writes the latch, a random byte
arrives. Nothing else changes (logs 3, 28). -/
def State.takeInput (s : State) : State :=
  { s with
    now := s.now + s.nextInput.elapsed
    key := s.nextInput.key
    rnd := s.nextInput.rnd
    inputs := s.inputs.tail
    draws := if s.inputs.isEmpty then s.draws + 1 else s.draws }

/-- The framebuffer read port (R203): pixel of column `c`, row `r`, as the last completed step left it. -/
def State.readPixel (s : State) (r : Fin 32) (c : Fin 64) : Bool := s.fb.pixel r c

/-- The timer read port for the delay timer at time `t` (R204). -/
def State.readDelayTimer (s : State) (t : Nat) : Byte := s.DT.value s.timeHz t

/-- The timer read port for the sound timer at time `t` (R204): the value only, the tone is outside (R4). -/
def State.readSoundTimer (s : State) (t : Nat) : Byte := s.ST.value s.timeHz t

/-- The halt output (R206). -/
def State.readHalt (s : State) : Bool × FaultRecord := (s.halted, s.fault)

end Sys2Proof.Machine
end

