-- ==== Sys2Proof/Machine/Engine.lean ====
section
/-!
DEFINITION. One step of the engine (20_memory.md R43, R44; 60_exceptions.md R162, R164): fetch, advance, decode, execute.
-/

namespace Sys2Proof.Machine

/-- The engine's part of a step, with the inputs of the step already in the state. A halted engine does nothing (R164); a fetch
that reaches beyond 0xFFF faults with `pc` unadvanced (R44); a word of no family would fault after the advance (R161, R162). -/
def engineStep (s : State) : Host.Outcome State Fault Refusal :=
  if s.halted then .next s
  else match s.fetch with
    | none => .next (s.takeFault .fetchBoundsFault s.pc 0 s.pc.toNat)
    | some w =>
      match decodeWord w with
      | none => .next (s.advance.raise .decodeFault w w.toNat)
      | some i => exec i s.advance

end Sys2Proof.Machine
end

