-- ==== Sys2Proof/Machine/Step.lean ====
section
/-!
DEFINITION. The step function (70_reset_and_hazards.md R201) and the place of the next instruction.
-/

namespace Sys2Proof.Machine

/-- One step: the surroundings' inputs for it, then the engine. -/
def step (s : State) : Host.Outcome State Fault Refusal := engineStep s.takeInput

/-- The state with one instruction stored at `pc`, high byte first, so that the next step fetches it (20_memory.md R43). The
bits of `w` are numbered as spec/opcode_table.json numbers them; those from bit `nbits` on are 0 (log 25). -/
def State.withFetchWord (s : State) (nbits w : Nat) : State := s.placeWord (BitVec.ofNat 16 (w % 2 ^ nbits))

end Sys2Proof.Machine
end

