-- ==== Sys2Proof/Safety.lean ====
section
/-!
DEFINITION. The terms claims are made in: the invariant of the machine (10_state.md R36), what an instruction may change (frames),
the fault an instruction raises as 60_exceptions.md R161 tabulates it, and what the rules say of flags, sprites and timers.
-/

namespace Sys2Proof.Machine

/-! ## The invariant -/

/-- What holds in every state a run reaches (10_state.md R16, R18, R36; 60_exceptions.md R161): memory in canonical form, `pc` at
most 0x10FE, every stack entry at most 0x1000, the fault record zero until the halt and of a reachable cause (2 to 6) after it, no
timer armed in the future, `TIME_HZ` positive. The record and its codes are the spec's decision D14 (log 7), code 6 its decision
D16 (log 14). That `sp` is at most 16 is its type (log 26). -/
structure State.Inv (s : State) : Prop where
  memCanonical : s.mem.wf
  pcBound : s.pc.toNat ≤ 0x10FE
  stackBound : ∀ k : Fin 16, (s.stack[k]).toNat ≤ 0x1000
  noFaultBeforeHalt : s.halted = false → s.fault = FaultRecord.none
  causeOfHalt : s.halted = true → 2 ≤ s.fault.cause.toNat ∧ s.fault.cause.toNat ≤ 6
  delayArmedInPast : s.DT.armed = true → s.DT.armedAt ≤ s.now
  soundArmedInPast : s.ST.armed = true → s.ST.armedAt ≤ s.now
  timeUnit : 0 < s.timeHz

/-- A state in which the engine goes on: not halted, and the next fetch inside memory (20_memory.md R44). -/
abbrev State.Running (s : State) : Prop := s.halted = false ∧ s.pc.toNat ≤ 0xFFE

/-! ## Frames -/

/-- `t` is `s` but for registers, and only registers that `w` names differ. -/
def OnlyRegs (w : RegIx → Prop) (s t : State) : Prop := t = { s with V := t.V } ∧ ∀ r, ¬ w r → t.reg r = s.reg r

/-- `t` is `s` but for the program counter. -/
def OnlyPc (s t : State) : Prop := t = { s with pc := t.pc }

/-- `t` is `s` but for the index register. -/
def OnlyI (s t : State) : Prop := t = { s with I := t.I }

/-- `t` is `s` but for memory, and every byte outside the `n` bytes from address `a` on reads as before. -/
def OnlyBytes (a n : Nat) (s t : State) : Prop :=
  t = { s with mem := t.mem } ∧ ∀ b, ¬ (a ≤ b ∧ b < a + n) → t.mem.read b = s.mem.read b

/-- `t` is `s` halted: nothing else differs but the fault record (60_exceptions.md R163). -/
def OnlyHalt (s t : State) : Prop := t = { s with halted := true, fault := t.fault }

/-! ## Which instruction writes what -/

/-- The general registers an instruction may write: its destination `x`, VF where the instruction writes the flag, `V[0]` to
`V[x]` for `Fx65`; none otherwise (10_state.md R12, 00_scope.md R9). -/
def writesReg : Instr → RegIx → Prop
  | .ldImm x _, r | .addImm x _, r | .ldReg x _, r | .orReg x _, r | .andReg x _, r | .xorReg x _, r => r = x
  | .addReg x _, r | .subReg x _, r | .shr x _, r | .subnReg x _, r | .shl x _, r => r = x ∨ r = 0xF
  | .rnd x _, r | .ldVxDT x, r | .ldVxK x, r => r = x
  | .drw _ _ _, r => r = 0xF
  | .loadRegs x, r => r.toNat ≤ x.toNat
  | .cls, _ | .ret, _ | .sys _, _ | .jp _, _ | .call _, _ | .seImm _ _, _ | .sneImm _ _, _ | .seReg _ _ _, _
  | .nop8 _ _ _, _ | .sneReg _ _ _, _ | .ldI _, _ | .jpV0 _, _ | .skp _, _ | .sknp _, _ | .nopE _ _, _
  | .ldDTVx _, _ | .ldSTVx _, _ | .addI _, _ | .ldF _, _ | .ldB _, _ | .storeRegs _, _ | .nopF _ _, _ => False

/-- The instructions that leave `pc` other than `A + 2` on some execution (10_state.md R15). -/
def transfers : Instr → Bool
  | .ret | .sys _ | .jp _ | .call _ | .jpV0 _ | .seImm _ _ | .sneImm _ _ | .seReg _ _ _ | .sneReg _ _ _
  | .skp _ | .sknp _ | .ldVxK _ => true
  | .cls | .ldImm _ _ | .addImm _ _ | .ldReg _ _ | .orReg _ _ | .andReg _ _ | .xorReg _ _ | .addReg _ _
  | .subReg _ _ | .shr _ _ | .subnReg _ _ | .shl _ _ | .nop8 _ _ _ | .ldI _ | .rnd _ _ | .drw _ _ _ | .nopE _ _
  | .ldVxDT _ | .ldDTVx _ | .ldSTVx _ | .addI _ | .ldF _ | .ldB _ | .storeRegs _ | .loadRegs _ | .nopF _ _ => false

/-! ## The faults of 60_exceptions.md R161 -/

/-- The fault an instruction raises in a state, as R161 tabulates it: the cause code and the recorded value; none where R161
lists no condition. -/
def specFault (i : Instr) (s : State) : Option (Nat × Nat) :=
  match i with
  | .call _ => if s.sp.val = 16 then some (2, 16) else none
  | .ret => if s.sp.val = 0 then some (3, 0) else none
  | .drw _ _ n => if 0 < n.toNat ∧ 0xFFF < s.I.toNat + n.toNat - 1 then some (5, s.I.toNat + n.toNat - 1) else none
  | .ldB _ => if 0xFFF < s.I.toNat + 2 then some (5, s.I.toNat + 2) else none
  | .storeRegs x | .loadRegs x => if 0xFFF < s.I.toNat + x.toNat then some (5, s.I.toNat + x.toNat) else none
  | .skp x | .sknp x => if 0xF < (s.reg x).toNat then some (6, (s.reg x).toNat) else none
  | .cls | .sys _ | .jp _ | .seImm _ _ | .sneImm _ _ | .seReg _ _ _ | .ldImm _ _ | .addImm _ _ | .ldReg _ _
  | .orReg _ _ | .andReg _ _ | .xorReg _ _ | .addReg _ _ | .subReg _ _ | .shr _ _ | .subnReg _ _ | .shl _ _
  | .nop8 _ _ _ | .sneReg _ _ _ | .ldI _ | .jpV0 _ | .rnd _ _ | .nopE _ _ | .ldVxDT _ | .ldVxK _ | .ldDTVx _
  | .ldSTVx _ | .addI _ | .ldF _ | .nopF _ _ => none

/-! ## Sprites -/

/-- A set bit of the sprite of `n` rows at `I` falls on the pixel of row `r`, column `c`, when it is drawn at column `V[x]`, row
`V[y]` (44_display.md R131; bit 7 leftmost, log 19). -/
def SpriteCovers (s : State) (x y : RegIx) (n : Nat) (r : Fin 32) (c : Fin 64) : Prop :=
  ∃ row < n, ∃ col < 8, (s.mem.read (s.I.toNat + row)).getLsbD (7 - col) = true ∧
    ((s.reg y).toNat + row) % 32 = r.val ∧ ((s.reg x).toNat + col) % 64 = c.val

/-! ## Timers -/

/-- `TimerValue(T, t)` as a number (10_state.md R30, R32): 0 unarmed, else the larger of 0 and the stored value less
`floor((t - armed_at) * 60 / TIME_HZ)`, computed on integers. -/
def specTimerValue (timeHz : Nat) (T : Timer) (t : Nat) : Int :=
  if T.armed then max 0 ((T.stored.toNat : Int) - (max 0 ((t : Int) - T.armedAt)) * 60 / timeHz) else 0

end Sys2Proof.Machine
end

