-- ==== Sys2Proof/Certificates/Slice0/Obligations.lean ====
section
/-!
DEFINITION. The statements for the provers, in the order of OBLIGATIONS.json. In the statements about instructions `s` is the state in
which the instruction executes: its `pc` already holds the address of the next instruction (10_state.md R14), and `a`, `b` of the
rules are `s.reg x`, `s.reg y`.
-/

open Sys2Proof Sys2Proof.Machine

/-! ## Encoding -/

/-- Words written out from the opcode map and vectors F1 to F3 of 95_test_vectors.md decode to their instructions. -/
def Obligations.DecodeOfSpecWords : Prop :=
  decodeWord 0x00E0 = some .cls ∧ decodeWord 0x00EE = some .ret ∧ decodeWord 0x00E1 = some (.sys 0x0E1) ∧
  decodeWord 0x0000 = some (.sys 0) ∧ decodeWord 0x1234 = some (.jp 0x234) ∧ decodeWord 0x5127 = some (.seReg 1 2 7) ∧
  decodeWord 0x8124 = some (.addReg 1 2) ∧ decodeWord 0x8128 = some (.nop8 1 2 8) ∧ decodeWord 0x812E = some (.shl 1 2) ∧
  decodeWord 0xB123 = some (.jpV0 0x123) ∧ decodeWord 0xD12A = some (.drw 1 2 0xA) ∧ decodeWord 0xE19E = some (.skp 1) ∧
  decodeWord 0xE19F = some (.nopE 1 0x9F) ∧ decodeWord 0xF107 = some (.ldVxDT 1) ∧ decodeWord 0xF175 = some (.nopF 1 0x75)

/-- A line of the opcode map of 30_encoding.md R65: match value, mask, and the instruction with the fields of R61 (`nnn = w[11:0]`,
`x = w[11:8]`, `y = w[7:4]`, `n = w[3:0]`, `kk = w[7:0]`). -/
abbrev OpcodeLine := Word × Word × (Word → Instr)

/-- Families 0 to 7 of the opcode map. -/
def opcodeMapLow : List OpcodeLine :=
  [(0x00E0, 0xFFFF, fun _ => .cls),
   (0x00EE, 0xFFFF, fun _ => .ret),
   (0x0000, 0xF000, fun w => .sys (w.extractLsb' 0 12)),
   (0x1000, 0xF000, fun w => .jp (w.extractLsb' 0 12)),
   (0x2000, 0xF000, fun w => .call (w.extractLsb' 0 12)),
   (0x3000, 0xF000, fun w => .seImm (w.extractLsb' 8 4) (w.extractLsb' 0 8)),
   (0x4000, 0xF000, fun w => .sneImm (w.extractLsb' 8 4) (w.extractLsb' 0 8)),
   (0x5000, 0xF000, fun w => .seReg (w.extractLsb' 8 4) (w.extractLsb' 4 4) (w.extractLsb' 0 4)),
   (0x6000, 0xF000, fun w => .ldImm (w.extractLsb' 8 4) (w.extractLsb' 0 8)),
   (0x7000, 0xF000, fun w => .addImm (w.extractLsb' 8 4) (w.extractLsb' 0 8))]

/-- Family 8. -/
def opcodeMapFamily8 : List OpcodeLine :=
  [(0x8000, 0xF00F, fun w => .ldReg (w.extractLsb' 8 4) (w.extractLsb' 4 4)),
   (0x8001, 0xF00F, fun w => .orReg (w.extractLsb' 8 4) (w.extractLsb' 4 4)),
   (0x8002, 0xF00F, fun w => .andReg (w.extractLsb' 8 4) (w.extractLsb' 4 4)),
   (0x8003, 0xF00F, fun w => .xorReg (w.extractLsb' 8 4) (w.extractLsb' 4 4)),
   (0x8004, 0xF00F, fun w => .addReg (w.extractLsb' 8 4) (w.extractLsb' 4 4)),
   (0x8005, 0xF00F, fun w => .subReg (w.extractLsb' 8 4) (w.extractLsb' 4 4)),
   (0x8006, 0xF00F, fun w => .shr (w.extractLsb' 8 4) (w.extractLsb' 4 4)),
   (0x8007, 0xF00F, fun w => .subnReg (w.extractLsb' 8 4) (w.extractLsb' 4 4)),
   (0x800E, 0xF00F, fun w => .shl (w.extractLsb' 8 4) (w.extractLsb' 4 4)),
   (0x8000, 0xF000, fun w => .nop8 (w.extractLsb' 8 4) (w.extractLsb' 4 4) (w.extractLsb' 0 4))]

/-- Families 9 to E. -/
def opcodeMapHigh : List OpcodeLine :=
  [(0x9000, 0xF000, fun w => .sneReg (w.extractLsb' 8 4) (w.extractLsb' 4 4) (w.extractLsb' 0 4)),
   (0xA000, 0xF000, fun w => .ldI (w.extractLsb' 0 12)),
   (0xB000, 0xF000, fun w => .jpV0 (w.extractLsb' 0 12)),
   (0xC000, 0xF000, fun w => .rnd (w.extractLsb' 8 4) (w.extractLsb' 0 8)),
   (0xD000, 0xF000, fun w => .drw (w.extractLsb' 8 4) (w.extractLsb' 4 4) (w.extractLsb' 0 4)),
   (0xE09E, 0xF0FF, fun w => .skp (w.extractLsb' 8 4)),
   (0xE0A1, 0xF0FF, fun w => .sknp (w.extractLsb' 8 4)),
   (0xE000, 0xF000, fun w => .nopE (w.extractLsb' 8 4) (w.extractLsb' 0 8))]

/-- Family F. -/
def opcodeMapFamilyF : List OpcodeLine :=
  [(0xF007, 0xF0FF, fun w => .ldVxDT (w.extractLsb' 8 4)),
   (0xF00A, 0xF0FF, fun w => .ldVxK (w.extractLsb' 8 4)),
   (0xF015, 0xF0FF, fun w => .ldDTVx (w.extractLsb' 8 4)),
   (0xF018, 0xF0FF, fun w => .ldSTVx (w.extractLsb' 8 4)),
   (0xF01E, 0xF0FF, fun w => .addI (w.extractLsb' 8 4)),
   (0xF029, 0xF0FF, fun w => .ldF (w.extractLsb' 8 4)),
   (0xF033, 0xF0FF, fun w => .ldB (w.extractLsb' 8 4)),
   (0xF055, 0xF0FF, fun w => .storeRegs (w.extractLsb' 8 4)),
   (0xF065, 0xF0FF, fun w => .loadRegs (w.extractLsb' 8 4)),
   (0xF000, 0xF000, fun w => .nopF (w.extractLsb' 8 4) (w.extractLsb' 0 8))]

/-- The opcode map of R65, line by line in its order. -/
def opcodeMap : List OpcodeLine := opcodeMapLow ++ opcodeMapFamily8 ++ opcodeMapHigh ++ opcodeMapFamilyF

/-- R65, R73: a word decodes to the first line of the opcode map whose match value it has under the line's mask. -/
def Obligations.DecoderFollowsOpcodeMap : Prop :=
  ∀ w : Word, decodeWord w = (opcodeMap.find? (fun line => w &&& line.2.1 == line.1)).map (fun line => line.2.2 w)

/-- 30_encoding.md R67: every word decodes, to a well-formed instruction; and so no step of the engine records the decode fault, whose
code 1 is 60_exceptions.md R161 (codes and record: the spec's decision D14, log 7). -/
def Obligations.NoWordIsIllegal : Prop :=
  (∀ w : Word, ∃ i, decodeWord w = some i ∧ i.wf = true) ∧
  ∀ s t : State, engineStep s = .next t → s.fault.cause ≠ 1 → t.fault.cause ≠ 1

/-- R61, R65: decoding the word of a well-formed instruction gives the instruction back, every field at every value. -/
def Obligations.DecodeEncodeRoundTrip : Prop :=
  ∀ i : Instr, i.wf = true → decodeWord (encode i) = some i

/-- R61, R65: encoding what a word decodes to gives the word back, so each word has one meaning and no bit is dropped. -/
def Obligations.EncodeDecodeRoundTrip : Prop :=
  ∀ (w : Word) (i : Instr), decodeWord w = some i → encode i = w

/-! ## The step -/

/-- 20_memory.md R43: with `A = pc`, the word `mem[A] * 256 + mem[A+1]` is fetched, `pc` becomes `A + 2`, and the decoded instruction
is executed; `takeInput` is what the model adds, the inputs of the step (log 1). -/
def Obligations.StepRunsDecodedInstruction : Prop :=
  ∀ (s : State) (w : Word) (i : Instr), s.halted = false → s.pc.toNat ≤ 0xFFE →
    w.toNat = (s.mem.read s.pc.toNat).toNat * 256 + (s.mem.read (s.pc.toNat + 1)).toNat →
    decodeWord w = some i →
    step s = exec i { s.takeInput with pc := s.pc + 2 }

/-- The model's form of the inputs of a step (log 1, DESIGN CHOICE; 10_state.md R33, R34, 70_reset_and_hazards.md R202): the next
listed input if there is one, else a free one; time advances by its elapsed time, the latch and the random sample are its own, and
nothing else changes. -/
def Obligations.InputsOfAStep : Prop :=
  (∀ (s : State) (i : StepInput) (rest : List StepInput), s.inputs = i :: rest →
    s.takeInput = { s with now := s.now + i.elapsed, key := i.key, rnd := i.rnd, inputs := rest }) ∧
  ∀ s : State, s.inputs = [] →
    s.takeInput = { s with
      now := s.now + Config.freeElapsed s.draws, key := Config.freeKeys s.draws
      rnd := Config.freeRandomByte s.draws, draws := s.draws + 1 }

/-- 20_memory.md R44 with 60_exceptions.md R161, R163 (the spec's decisions D12 and D14): a step that begins with `pc > 0xFFE` halts
with cause 4, recording `pc`; `pc` and everything else stay. -/
def Obligations.FetchBeyondMemoryHalts : Prop :=
  ∀ s : State, s.halted = false → 0xFFE < s.pc.toNat →
    step s = .next { s.takeInput with
      halted := true, fault := { cause := 4, addr := s.pc, word := 0, info := s.pc.setWidth 32 } }

/-- 60_exceptions.md R164 (the spec's decision D15): a halted engine changes nothing; only the inputs of the step arrive (log 28). -/
def Obligations.HaltedEngineChangesNothing : Prop :=
  ∀ s : State, s.halted = true → engineStep s = .next s ∧ step s = .next s.takeInput

/-- 70_reset_and_hazards.md R201: a step "always completes", from every state. -/
def Obligations.EveryStepCompletes : Prop :=
  ∀ s : State, ∃ t, step s = .next t

/-- 60_exceptions.md R161, R163 (codes and record: the spec's decision D14; cause 6: D16): an instruction raises a fault exactly under
the conditions R161 lists for it; then everything but `halted` and the record is as before it executed, and the record holds the
code, the address two below the advanced `pc`, the instruction's word and the value of R161. -/
def Obligations.FaultConditionsOfInstructions : Prop :=
  ∀ (i : Instr) (s t : State), s.halted = false → exec i s = .next t →
    (specFault i s = none → t.halted = false ∧ t.fault = s.fault) ∧
    ∀ cause info, specFault i s = some (cause, info) →
      t = { s with
        halted := true
        fault := { cause := BitVec.ofNat 8 cause, addr := s.pc - 2, word := encode i, info := BitVec.ofNat 32 info } }

/-- 60_exceptions.md R161, R163 (D14): a step that halts in execution leaves `pc` two beyond the address the instruction was fetched
from, records that address and the fetched word, and changes nothing else. -/
def Obligations.StepFaultIsPrecise : Prop :=
  ∀ (s t : State) (w : Word), s.Running → s.fetch = some w → step s = .next t → t.halted = true →
    t = { s.takeInput with pc := s.pc + 2, halted := true, fault := t.fault } ∧ t.fault.addr = s.pc ∧ t.fault.word = w

/-- 60_exceptions.md R164, R165 and 10_state.md R33 over a step: `now` never decreases, and a halt and its record stay. -/
def Obligations.HaltAndTimeAreMonotone : Prop :=
  ∀ s t : State, step s = .next t →
    s.now ≤ t.now ∧ (s.halted = true → t.halted = true ∧ t.fault = s.fault)

/-! ## Reset and the invariant -/

/-- 10_state.md R35, 70_reset_and_hazards.md R190 to R192 (values: the spec's decisions D4, D5, D14): the state a reset leaves, piece by
piece, for every legal parameter; and the default reset is `State.reset`. -/
def Obligations.ResetState : Prop :=
  (∀ p : Params, p.programStart + p.program.length ≤ 4096 → 0x200 ≤ p.programStart → p.programStart ≤ 0xFFF → 0 < p.timeHz →
    ∃ s, State.resetWith p = .next s ∧
      (∀ r, s.reg r = 0) ∧ s.I = 0 ∧ s.pc.toNat = p.programStart ∧ s.sp.val = 0 ∧ (∀ k : Fin 16, s.stack[k] = 0) ∧
      s.DT = { stored := 0, armed := false, armedAt := 0 } ∧ s.ST = { stored := 0, armed := false, armedAt := 0 } ∧
      (∀ r c, s.fb.pixel r c = false) ∧ (∀ k : Fin 16, s.key[k] = false) ∧
      s.halted = false ∧ s.fault = { cause := 0, addr := 0, word := 0, info := 0 } ∧ s.timeHz = p.timeHz ∧
      (∀ a, ∀ h : a < 80, s.mem.read a = p.font[a]) ∧
      (∀ a, 80 ≤ a → a < p.programStart → s.mem.read a = 0) ∧
      (∀ k, ∀ h : k < p.program.length, s.mem.read (p.programStart + k) = p.program[k]) ∧
      (∀ a, p.programStart + p.program.length ≤ a → a < 4096 → s.mem.read a = 0)) ∧
  State.resetWith defaultParams = .next State.reset

/-- 70_reset_and_hazards.md R196 (the spec's decision D23): an image that does not fit is refused. -/
def Obligations.OversizedImageRefused : Prop :=
  ∀ p : Params, 4096 < p.programStart + p.program.length → State.resetWith p = .refused .imageTooLong

/-- 10_state.md R25, R35, R36: the state after reset meets the invariant (reset values: the spec's decisions D4, D5, log 4; the fault
record, zero while not halted: D14, log 7). -/
def Obligations.InvariantAtReset : Prop := State.reset.Inv

/-- 10_state.md R25, R35, R36, 70_reset_and_hazards.md R190: so does the state after every reset that is not refused (reset values: the
spec's decisions D4, D5, log 4; the fault record, zero while not halted: D14, log 7). -/
def Obligations.InvariantAtEveryReset : Prop :=
  ∀ (p : Params) (s : State), State.resetWith p = .next s → s.Inv

/-- 10_state.md R16, R36, R25 with 60_exceptions.md R161, R163: every step keeps the invariant: canonical memory, `pc ≤ 0x10FE`, stack
entries at most 0x1000, the fault record zero until the halt and of a reachable cause, 2 to 6, after it (record and codes: the spec's
decision D14, log 7; code 6: D16, log 14), no timer armed in the future. -/
def Obligations.StepKeepsInvariant : Prop :=
  ∀ s t : State, s.Inv → step s = .next t → t.Inv

/-! ## Control transfer (40_control_transfer.md) -/

/-- R81, R82: `0nnn` other than 00E0 and 00EE, and `1nnn`, load `nnn` into `pc` and change nothing else. -/
def Obligations.JumpsLoadTheAddress : Prop :=
  (∀ w : Word, w &&& 0xF000 = 0x0000 → w ≠ 0x00E0 → w ≠ 0x00EE → decodeWord w = some (.sys (w.extractLsb' 0 12))) ∧
  (∀ w : Word, w &&& 0xF000 = 0x1000 → decodeWord w = some (.jp (w.extractLsb' 0 12))) ∧
  ∀ (nnn : Addr) (s : State),
    (∃ t, exec (.sys nnn) s = .next t ∧ t.pc.toNat = nnn.toNat ∧ OnlyPc s t) ∧
    (∃ t, exec (.jp nnn) s = .next t ∧ t.pc.toNat = nnn.toNat ∧ OnlyPc s t)

/-- R84: `Bnnn` loads `V[0] + nnn`, unreduced, and changes nothing else. -/
def Obligations.JumpWithOffset : Prop :=
  (∀ w : Word, w &&& 0xF000 = 0xB000 → decodeWord w = some (.jpV0 (w.extractLsb' 0 12))) ∧
  ∀ (nnn : Addr) (s : State),
    ∃ t, exec (.jpV0 nnn) s = .next t ∧ t.pc.toNat = (s.reg 0).toNat + nnn.toNat ∧ OnlyPc s t

/-- R83 (fault record: D14): `2nnn` pushes `pc`, the address of the instruction after the call, and jumps; with a full stack it halts
with cause 2, recording 16, and changes nothing else. -/
def Obligations.CallPushesAndJumps : Prop :=
  (∀ w : Word, w &&& 0xF000 = 0x2000 → decodeWord w = some (.call (w.extractLsb' 0 12))) ∧
  ∀ (nnn : Addr) (s : State),
    (∀ h : s.sp.val < 16, ∃ t, exec (.call nnn) s = .next t ∧ t.pc.toNat = nnn.toNat ∧ t.sp.val = s.sp.val + 1 ∧
      t.stack[s.sp.val] = s.pc ∧ (∀ k : Fin 16, k.val ≠ s.sp.val → t.stack[k] = s.stack[k]) ∧
      t = { s with pc := t.pc, sp := t.sp, stack := t.stack }) ∧
    (s.sp.val = 16 → ∃ t, exec (.call nnn) s = .next t ∧ OnlyHalt s t ∧ t.fault.cause = 2 ∧ t.fault.info = 16)

/-- R80 (fault record: D14; the popped entry stays: R17): `00EE` pops into `pc`; with an empty stack it halts with cause 3, recording 0,
and changes nothing else. -/
def Obligations.ReturnPopsIntoPc : Prop :=
  decodeWord 0x00EE = some .ret ∧
  ∀ s : State,
    (∀ h : 0 < s.sp.val, ∃ t, exec .ret s = .next t ∧
      t.pc = s.stack[s.sp.val - 1]'(by have := s.sp.isLt; omega) ∧ t.sp.val = s.sp.val - 1 ∧
      t = { s with pc := t.pc, sp := t.sp }) ∧
    (s.sp.val = 0 → ∃ t, exec .ret s = .next t ∧ OnlyHalt s t ∧ t.fault.cause = 3 ∧ t.fault.info = 0)

/-- 95_test_vectors.md S6, from R80 and R83: a call and then a return, whatever kept stack and stack pointer in between, restore `sp` and
continue after the call. -/
def Obligations.ReturnUndoesCall : Prop :=
  ∀ (nnn : Addr) (s t u : State), s.sp.val < 16 → exec (.call nnn) s = .next t → u.sp = t.sp → u.stack = t.stack →
    ∃ v, exec .ret u = .next v ∧ v.pc = s.pc ∧ v.sp = s.sp

/-! ## Skips (41_skips.md) -/

/-- R90, R91: `3xkk` and `4xkk` add 2 to `pc` when `V[x]` equals, respectively differs from, `kk`, and change nothing else. -/
def Obligations.SkipsOnImmediate : Prop :=
  (∀ w : Word, w &&& 0xF000 = 0x3000 → decodeWord w = some (.seImm (w.extractLsb' 8 4) (w.extractLsb' 0 8))) ∧
  (∀ w : Word, w &&& 0xF000 = 0x4000 → decodeWord w = some (.sneImm (w.extractLsb' 8 4) (w.extractLsb' 0 8))) ∧
  ∀ (x : RegIx) (kk : Byte) (s : State),
    (∃ t, exec (.seImm x kk) s = .next t ∧ t.pc = (if (s.reg x).toNat = kk.toNat then s.pc + 2 else s.pc) ∧ OnlyPc s t) ∧
    (∃ t, exec (.sneImm x kk) s = .next t ∧ t.pc = (if (s.reg x).toNat = kk.toNat then s.pc else s.pc + 2) ∧ OnlyPc s t)

/-- R92, R93 (that `n` is ignored: the spec's decision D10, log 11): `5xyn` and `9xyn` add 2 to `pc` when `V[x]` equals, respectively
differs from, `V[y]`, and change nothing else. -/
def Obligations.SkipsOnRegisters : Prop :=
  (∀ w : Word, w &&& 0xF000 = 0x5000 →
    decodeWord w = some (.seReg (w.extractLsb' 8 4) (w.extractLsb' 4 4) (w.extractLsb' 0 4))) ∧
  (∀ w : Word, w &&& 0xF000 = 0x9000 →
    decodeWord w = some (.sneReg (w.extractLsb' 8 4) (w.extractLsb' 4 4) (w.extractLsb' 0 4))) ∧
  ∀ (x y : RegIx) (n : Nibble) (s : State),
    (∃ t, exec (.seReg x y n) s = .next t ∧
      t.pc = (if (s.reg x).toNat = (s.reg y).toNat then s.pc + 2 else s.pc) ∧ OnlyPc s t) ∧
    (∃ t, exec (.sneReg x y n) s = .next t ∧
      t.pc = (if (s.reg x).toNat = (s.reg y).toNat then s.pc else s.pc + 2) ∧ OnlyPc s t)

/-! ## Registers (42_register_alu.md) -/

/-- R100, R101, R102: load immediate, add immediate modulo 256, copy; the destination is the only thing that changes, VF included. -/
def Obligations.LoadsAndAddImmediate : Prop :=
  (∀ w : Word, w &&& 0xF000 = 0x6000 → decodeWord w = some (.ldImm (w.extractLsb' 8 4) (w.extractLsb' 0 8))) ∧
  (∀ w : Word, w &&& 0xF000 = 0x7000 → decodeWord w = some (.addImm (w.extractLsb' 8 4) (w.extractLsb' 0 8))) ∧
  (∀ w : Word, w &&& 0xF00F = 0x8000 → decodeWord w = some (.ldReg (w.extractLsb' 8 4) (w.extractLsb' 4 4))) ∧
  ∀ (x y : RegIx) (kk : Byte) (s : State),
    (∃ t, exec (.ldImm x kk) s = .next t ∧ t.reg x = kk ∧ OnlyRegs (· = x) s t) ∧
    (∃ t, exec (.addImm x kk) s = .next t ∧ (t.reg x).toNat = ((s.reg x).toNat + kk.toNat) % 256 ∧ OnlyRegs (· = x) s t) ∧
    (∃ t, exec (.ldReg x y) s = .next t ∧ t.reg x = s.reg y ∧ OnlyRegs (· = x) s t)

/-- R103, R104, R105 (that VF is untouched: the spec's decision D31, log 24): the logical operations, bit by bit. -/
def Obligations.BitwiseLogic : Prop :=
  (∀ w : Word, w &&& 0xF00F = 0x8001 → decodeWord w = some (.orReg (w.extractLsb' 8 4) (w.extractLsb' 4 4))) ∧
  (∀ w : Word, w &&& 0xF00F = 0x8002 → decodeWord w = some (.andReg (w.extractLsb' 8 4) (w.extractLsb' 4 4))) ∧
  (∀ w : Word, w &&& 0xF00F = 0x8003 → decodeWord w = some (.xorReg (w.extractLsb' 8 4) (w.extractLsb' 4 4))) ∧
  ∀ (x y : RegIx) (s : State),
    (∃ t, exec (.orReg x y) s = .next t ∧ OnlyRegs (· = x) s t ∧
      ∀ i < 8, ((t.reg x).getLsbD i = true ↔ (s.reg x).getLsbD i = true ∨ (s.reg y).getLsbD i = true)) ∧
    (∃ t, exec (.andReg x y) s = .next t ∧ OnlyRegs (· = x) s t ∧
      ∀ i < 8, ((t.reg x).getLsbD i = true ↔ (s.reg x).getLsbD i = true ∧ (s.reg y).getLsbD i = true)) ∧
    (∃ t, exec (.xorReg x y) s = .next t ∧ OnlyRegs (· = x) s t ∧
      ∀ i < 8, ((t.reg x).getLsbD i = true ↔ (s.reg x).getLsbD i ≠ (s.reg y).getLsbD i))

/-- R106 (with `x` or `y` VF, 10_state.md R26: the spec's decision D8, log 9): `8xy4` stores the sum modulo 256 and then the carry in VF,
so that with `x = 0xF` the carry stands. -/
def Obligations.AddWithCarry : Prop :=
  (∀ w : Word, w &&& 0xF00F = 0x8004 → decodeWord w = some (.addReg (w.extractLsb' 8 4) (w.extractLsb' 4 4))) ∧
  ∀ (x y : RegIx) (s : State), ∃ t, exec (.addReg x y) s = .next t ∧
    (x ≠ 0xF → (t.reg x).toNat = ((s.reg x).toNat + (s.reg y).toNat) % 256) ∧
    (t.reg 0xF).toNat = (if 256 ≤ (s.reg x).toNat + (s.reg y).toNat then 1 else 0) ∧
    OnlyRegs (fun r => r = x ∨ r = 0xF) s t

/-- R107, R109 (with `x` or `y` VF: the spec's decision D8, log 9; `8xy7` at equality: D9, log 10): the differences modulo 256, and in VF
1 exactly when the minuend is at least the subtrahend; with `x = 0xF` the difference stands. -/
def Obligations.SubtractWithNoBorrow : Prop :=
  (∀ w : Word, w &&& 0xF00F = 0x8005 → decodeWord w = some (.subReg (w.extractLsb' 8 4) (w.extractLsb' 4 4))) ∧
  (∀ w : Word, w &&& 0xF00F = 0x8007 → decodeWord w = some (.subnReg (w.extractLsb' 8 4) (w.extractLsb' 4 4))) ∧
  ∀ (x y : RegIx) (s : State),
    (∃ t, exec (.subReg x y) s = .next t ∧
      ((t.reg x).toNat : Int) = (((s.reg x).toNat : Int) - (s.reg y).toNat) % 256 ∧
      (x ≠ 0xF → (t.reg 0xF).toNat = (if (s.reg y).toNat ≤ (s.reg x).toNat then 1 else 0)) ∧
      OnlyRegs (fun r => r = x ∨ r = 0xF) s t) ∧
    (∃ t, exec (.subnReg x y) s = .next t ∧
      ((t.reg x).toNat : Int) = (((s.reg y).toNat : Int) - (s.reg x).toNat) % 256 ∧
      (x ≠ 0xF → (t.reg 0xF).toNat = (if (s.reg x).toNat ≤ (s.reg y).toNat then 1 else 0)) ∧
      OnlyRegs (fun r => r = x ∨ r = 0xF) s t)

/-- R108, R110 (with `x` VF: the spec's decision D8, log 9): the shifts by one bit of `V[x]`, `V[y]` taking no part, and in VF the bit
shifted out; with `x = 0xF` the result stands. -/
def Obligations.ShiftsByOne : Prop :=
  (∀ w : Word, w &&& 0xF00F = 0x8006 → decodeWord w = some (.shr (w.extractLsb' 8 4) (w.extractLsb' 4 4))) ∧
  (∀ w : Word, w &&& 0xF00F = 0x800E → decodeWord w = some (.shl (w.extractLsb' 8 4) (w.extractLsb' 4 4))) ∧
  ∀ (x y : RegIx) (s : State),
    (∃ t, exec (.shr x y) s = .next t ∧ (t.reg x).toNat = (s.reg x).toNat / 2 ∧
      (x ≠ 0xF → (t.reg 0xF).toNat = (s.reg x).toNat % 2) ∧ OnlyRegs (fun r => r = x ∨ r = 0xF) s t) ∧
    (∃ t, exec (.shl x y) s = .next t ∧ (t.reg x).toNat = (s.reg x).toNat * 2 % 256 ∧
      (x ≠ 0xF → (t.reg 0xF).toNat = (s.reg x).toNat / 128) ∧ OnlyRegs (fun r => r = x ∨ r = 0xF) s t)

/-- R111, 45_keys_timers.md R147, R148: the undefined words of families 8, E and F change nothing beyond the generic advance. -/
def Obligations.NoOpEncodings : Prop :=
  (∀ w : Word, w &&& 0xF000 = 0x8000 → w.extractLsb' 0 4 ∈ [0x8#4, 0x9, 0xA, 0xB, 0xC, 0xD, 0xF] →
    decodeWord w = some (.nop8 (w.extractLsb' 8 4) (w.extractLsb' 4 4) (w.extractLsb' 0 4))) ∧
  (∀ w : Word, w &&& 0xF000 = 0xE000 → w.extractLsb' 0 8 ∉ [0x9E#8, 0xA1] →
    decodeWord w = some (.nopE (w.extractLsb' 8 4) (w.extractLsb' 0 8))) ∧
  (∀ w : Word, w &&& 0xF000 = 0xF000 → w.extractLsb' 0 8 ∉ [0x07#8, 0x0A, 0x15, 0x18, 0x1E, 0x29, 0x33, 0x55, 0x65] →
    decodeWord w = some (.nopF (w.extractLsb' 8 4) (w.extractLsb' 0 8))) ∧
  ∀ (x y : RegIx) (n : Nibble) (kk : Byte) (s : State),
    exec (.nop8 x y n) s = .next s ∧ exec (.nopE x kk) s = .next s ∧ exec (.nopF x kk) s = .next s

/-- R112, 10_state.md R34 (the free input: the spec's decision D7, log 1): `Cxkk` stores the random input of the step under the mask, and
any byte may be that input. -/
def Obligations.RandomUnderMask : Prop :=
  (∀ w : Word, w &&& 0xF000 = 0xC000 → decodeWord w = some (.rnd (w.extractLsb' 8 4) (w.extractLsb' 0 8))) ∧
  (∀ (x : RegIx) (kk : Byte) (s : State), ∃ t, exec (.rnd x kk) s = .next t ∧ OnlyRegs (· = x) s t ∧
    ∀ i < 8, ((t.reg x).getLsbD i = true ↔ s.rnd.getLsbD i = true ∧ kk.getLsbD i = true)) ∧
  ∀ (x : RegIx) (kk : Byte) (s : State) (i : StepInput) (rest : List StepInput),
    s.Running → s.fetch = some (encode (.rnd x kk)) →
    ∃ t, step { s with inputs := i :: rest } = .next t ∧ t.reg x = i.rnd &&& kk

/-! ## Index and memory (43_index_memory.md) -/

/-- R120: `Annn` loads `nnn` into `I` and changes nothing else. -/
def Obligations.LoadIndex : Prop :=
  (∀ w : Word, w &&& 0xF000 = 0xA000 → decodeWord w = some (.ldI (w.extractLsb' 0 12))) ∧
  ∀ (nnn : Addr) (s : State), ∃ t, exec (.ldI nnn) s = .next t ∧ t.I.toNat = nnn.toNat ∧ OnlyI s t

/-- R121, R122 (wrap modulo 2^16 and VF untouched: the spec's decision D17, log 15; values above 15: D18, log 16): `Fx1E` adds `V[x]`
to `I`, `Fx29` sets `I` to `5 * V[x]`; nothing else changes. -/
def Obligations.IndexArithmetic : Prop :=
  (∀ w : Word, w &&& 0xF0FF = 0xF01E → decodeWord w = some (.addI (w.extractLsb' 8 4))) ∧
  (∀ w : Word, w &&& 0xF0FF = 0xF029 → decodeWord w = some (.ldF (w.extractLsb' 8 4))) ∧
  ∀ (x : RegIx) (s : State),
    (∃ t, exec (.addI x) s = .next t ∧ t.I.toNat = (s.I.toNat + (s.reg x).toNat) % 65536 ∧ OnlyI s t) ∧
    (∃ t, exec (.ldF x) s = .next t ∧ t.I.toNat = 5 * (s.reg x).toNat ∧ OnlyI s t)

/-- R123 (whole-range check: the spec's decision D13, log 13; fault record: D14): `Fx33` stores the three decimal digits from `I` on, and
no other byte changes; when the range reaches beyond 0xFFF it halts with cause 5 and stores nothing. -/
def Obligations.StoreDecimalDigits : Prop :=
  (∀ w : Word, w &&& 0xF0FF = 0xF033 → decodeWord w = some (.ldB (w.extractLsb' 8 4))) ∧
  ∀ (x : RegIx) (s : State), s.mem.wf →
    (s.I.toNat + 2 ≤ 0xFFF → ∃ t, exec (.ldB x) s = .next t ∧
      (t.mem.read s.I.toNat).toNat = (s.reg x).toNat / 100 ∧
      (t.mem.read (s.I.toNat + 1)).toNat = (s.reg x).toNat / 10 % 10 ∧
      (t.mem.read (s.I.toNat + 2)).toNat = (s.reg x).toNat % 10 ∧ OnlyBytes s.I.toNat 3 s t) ∧
    (0xFFF < s.I.toNat + 2 → ∃ t, exec (.ldB x) s = .next t ∧ OnlyHalt s t ∧ t.fault.cause = 5 ∧
      t.fault.info.toNat = s.I.toNat + 2)

/-- R124 (`I` unchanged: the spec's decision D19, log 17; whole-range check: D13, log 13; fault record: D14): `Fx55` stores `V[0]` to `V[x]`
from `I` on, and no other byte changes; when the range reaches beyond 0xFFF it halts with cause 5 and stores nothing. -/
def Obligations.StoreRegisterBlock : Prop :=
  (∀ w : Word, w &&& 0xF0FF = 0xF055 → decodeWord w = some (.storeRegs (w.extractLsb' 8 4))) ∧
  ∀ (x : RegIx) (s : State), s.mem.wf →
    (s.I.toNat + x.toNat ≤ 0xFFF → ∃ t, exec (.storeRegs x) s = .next t ∧
      (∀ k : RegIx, k.toNat ≤ x.toNat → t.mem.read (s.I.toNat + k.toNat) = s.reg k) ∧
      OnlyBytes s.I.toNat (x.toNat + 1) s t) ∧
    (0xFFF < s.I.toNat + x.toNat → ∃ t, exec (.storeRegs x) s = .next t ∧ OnlyHalt s t ∧ t.fault.cause = 5 ∧
      t.fault.info.toNat = s.I.toNat + x.toNat)

/-- R125 (`I` unchanged: the spec's decision D19, log 17; whole-range check: D13, log 13; fault record: D14): `Fx65` loads `V[0]` to `V[x]`
from `I` on and changes nothing else; when the range reaches beyond 0xFFF it halts with cause 5 and loads nothing. -/
def Obligations.LoadRegisterBlock : Prop :=
  (∀ w : Word, w &&& 0xF0FF = 0xF065 → decodeWord w = some (.loadRegs (w.extractLsb' 8 4))) ∧
  ∀ (x : RegIx) (s : State),
    (s.I.toNat + x.toNat ≤ 0xFFF → ∃ t, exec (.loadRegs x) s = .next t ∧
      (∀ k : RegIx, k.toNat ≤ x.toNat → t.reg k = s.mem.read (s.I.toNat + k.toNat)) ∧
      OnlyRegs (fun r => r.toNat ≤ x.toNat) s t) ∧
    (0xFFF < s.I.toNat + x.toNat → ∃ t, exec (.loadRegs x) s = .next t ∧ OnlyHalt s t ∧ t.fault.cause = 5 ∧
      t.fault.info.toNat = s.I.toNat + x.toNat)

/-- 20_memory.md R50 (the spec's decision D30): what `Fx55` has stored is what a fetch from there finds: the word of two consecutive
registers, the lower-numbered one in the high byte. -/
def Obligations.StoredWordIsFetched : Prop :=
  ∀ (x j k : RegIx) (s t : State), s.mem.wf → s.I.toNat + x.toNat ≤ 0xFFF → k.toNat = j.toNat + 1 → k.toNat ≤ x.toNat →
    exec (.storeRegs x) s = .next t → t.pc.toNat = s.I.toNat + j.toNat →
    ∃ w, t.fetch = some w ∧ w.toNat = (s.reg j).toNat * 256 + (s.reg k).toNat

/-! ## Display (44_display.md) -/

/-- R130: `00E0` turns every pixel off and changes nothing else. -/
def Obligations.ClearDisplay : Prop :=
  decodeWord 0x00E0 = some .cls ∧
  ∀ s : State, ∃ t, exec .cls s = .next t ∧ (∀ r c, t.fb.pixel r c = false) ∧ t = { s with fb := t.fb }

/-- R131 (bit order: the spec's decision D21, log 19; VF without collision: D22, log 20; coordinates in VF: D8, log 9; whole-range check:
D13, log 13; fault record: D14): a draw changes exactly the pixels a set bit of the sprite falls on, sets VF to 1 when one of them was
on and to 0 otherwise, and changes nothing else; when the sprite reaches beyond 0xFFF it halts with cause 5 and draws nothing. -/
def Obligations.DrawTogglesSprite : Prop :=
  (∀ w : Word, w &&& 0xF000 = 0xD000 →
    decodeWord w = some (.drw (w.extractLsb' 8 4) (w.extractLsb' 4 4) (w.extractLsb' 0 4))) ∧
  ∀ (x y : RegIx) (n : Nibble) (s : State),
    (n = 0 ∨ s.I.toNat + n.toNat - 1 ≤ 0xFFF → ∃ t, exec (.drw x y n) s = .next t ∧
      (∀ r c, t.fb.pixel r c ≠ s.fb.pixel r c ↔ SpriteCovers s x y n.toNat r c) ∧
      ((∃ r c, SpriteCovers s x y n.toNat r c ∧ s.fb.pixel r c = true) → t.reg 0xF = 1) ∧
      ((¬ ∃ r c, SpriteCovers s x y n.toNat r c ∧ s.fb.pixel r c = true) → t.reg 0xF = 0) ∧
      (∀ r, r ≠ 0xF → t.reg r = s.reg r) ∧ t = { s with V := t.V, fb := t.fb }) ∧
    (n ≠ 0 → 0xFFF < s.I.toNat + n.toNat - 1 → ∃ t, exec (.drw x y n) s = .next t ∧ OnlyHalt s t ∧ t.fault.cause = 5 ∧
      t.fault.info.toNat = s.I.toNat + n.toNat - 1)

/-- 95_test_vectors.md S5, from R131 (bit order: the spec's decision D21, log 19; VF written 0 without collision: D22, log 20): drawing
the same sprite twice at the same coordinates restores the display, and VF after the second draw is 1 exactly when a pixel under a set
bit of the sprite was off before the first. The coordinates are taken from registers other than VF, which the first draw changes. -/
def Obligations.DrawTwiceRestoresDisplay : Prop :=
  ∀ (x y : RegIx) (n : Nibble) (s t u : State), x ≠ 0xF → y ≠ 0xF → s.halted = false →
    exec (.drw x y n) s = .next t → t.halted = false → exec (.drw x y n) t = .next u →
    u.fb = s.fb ∧ (u.reg 0xF = 1 ↔ ∃ r c, SpriteCovers s x y n.toNat r c ∧ s.fb.pixel r c = false)

/-! ## Keys and timers (45_keys_timers.md) -/

/-- R140, R141 (values above 15: the spec's decision D16, log 14; fault record: D14): `Ex9E` and `ExA1` add 2 to `pc` when key `V[x]` is, respectively
is not, pressed, and change nothing else; with `V[x] > 15` they halt with cause 6, recording `V[x]`. -/
def Obligations.SkipsOnKeys : Prop :=
  (∀ w : Word, w &&& 0xF0FF = 0xE09E → decodeWord w = some (.skp (w.extractLsb' 8 4))) ∧
  (∀ w : Word, w &&& 0xF0FF = 0xE0A1 → decodeWord w = some (.sknp (w.extractLsb' 8 4))) ∧
  ∀ (x : RegIx) (s : State),
    (∀ k : Fin 16, (s.reg x).toNat = k.val →
      (∃ t, exec (.skp x) s = .next t ∧ t.pc = (if s.key[k] = true then s.pc + 2 else s.pc) ∧ OnlyPc s t) ∧
      (∃ t, exec (.sknp x) s = .next t ∧ t.pc = (if s.key[k] = true then s.pc else s.pc + 2) ∧ OnlyPc s t)) ∧
    (15 < (s.reg x).toNat →
      (∃ t, exec (.skp x) s = .next t ∧ OnlyHalt s t ∧ t.fault.cause = 6 ∧ t.fault.info.toNat = (s.reg x).toNat) ∧
      (∃ t, exec (.sknp x) s = .next t ∧ OnlyHalt s t ∧ t.fault.cause = 6 ∧ t.fault.info.toNat = (s.reg x).toNat))

/-- R143: `Fx0A` stores the lowest pressed key in `V[x]` and changes nothing else; when no key is pressed it steps `pc` back to itself and
changes nothing else. -/
def Obligations.WaitForKey : Prop :=
  (∀ w : Word, w &&& 0xF0FF = 0xF00A → decodeWord w = some (.ldVxK (w.extractLsb' 8 4))) ∧
  ∀ (x : RegIx) (s : State),
    (∀ k : Fin 16, s.key[k] = true → (∀ j : Fin 16, j < k → s.key[j] = false) →
      ∃ t, exec (.ldVxK x) s = .next t ∧ (t.reg x).toNat = k.val ∧ OnlyRegs (· = x) s t) ∧
    ((∀ k : Fin 16, s.key[k] = false) → exec (.ldVxK x) s = .next { s with pc := s.pc - 2 })

/-- R144: a step of the wait in which no key is pressed is a complete step that leaves the whole machine as it was: only the inputs of
the step have arrived. -/
def Obligations.WaitStepChangesNothing : Prop :=
  ∀ (x : RegIx) (s : State), s.Running → s.fetch = some (encode (.ldVxK x)) → (∀ k : Fin 16, s.takeInput.key[k] = false) →
    step s = .next s.takeInput

/-- R142 (`TimerValue` of R30, its inner maximum the spec's decision D6): `Fx07` stores `TimerValue(DT, now)` in `V[x]` and changes
nothing else. -/
def Obligations.ReadDelayTimer : Prop :=
  (∀ w : Word, w &&& 0xF0FF = 0xF007 → decodeWord w = some (.ldVxDT (w.extractLsb' 8 4))) ∧
  ∀ (x : RegIx) (s : State),
    ∃ t, exec (.ldVxDT x) s = .next t ∧ ((t.reg x).toNat : Int) = specTimerValue s.timeHz s.DT s.now ∧ OnlyRegs (· = x) s t

/-- R145, R146: `Fx15` and `Fx18` arm their timer with the value `V[x]` at the time `now`, and change nothing else. -/
def Obligations.ArmTimers : Prop :=
  (∀ w : Word, w &&& 0xF0FF = 0xF015 → decodeWord w = some (.ldDTVx (w.extractLsb' 8 4))) ∧
  (∀ w : Word, w &&& 0xF0FF = 0xF018 → decodeWord w = some (.ldSTVx (w.extractLsb' 8 4))) ∧
  ∀ (x : RegIx) (s : State),
    (∃ t, exec (.ldDTVx x) s = .next t ∧ t.DT.stored = s.reg x ∧ t.DT.armed = true ∧ t.DT.armedAt = s.now ∧
      t = { s with DT := t.DT }) ∧
    (∃ t, exec (.ldSTVx x) s = .next t ∧ t.ST.stored = s.reg x ∧ t.ST.armed = true ∧ t.ST.armedAt = s.now ∧
      t = { s with ST := t.ST })

/-- 10_state.md R30, R32, R36, 70_reset_and_hazards.md R204 (the inner maximum of R30: the spec's decision D6): both read ports give the
value of R30; it is at most the stored value, never rises as time passes, and is 0 once `stored` ticks have elapsed. -/
def Obligations.TimersDecayToZero : Prop :=
  (∀ (s : State) (t : Nat), ((s.readDelayTimer t).toNat : Int) = specTimerValue s.timeHz s.DT t ∧
    ((s.readSoundTimer t).toNat : Int) = specTimerValue s.timeHz s.ST t) ∧
  ∀ (timeHz : Nat) (T : Timer) (t u : Nat), 0 < timeHz → t ≤ u →
    (T.value timeHz u).toNat ≤ (T.value timeHz t).toNat ∧ (T.value timeHz t).toNat ≤ T.stored.toNat ∧
    (T.stored.toNat * timeHz ≤ (t - T.armedAt) * 60 → T.value timeHz t = 0)

/-! ## Rules about the whole machine -/

/-- 10_state.md R12 with 00_scope.md R9 (the spec's decisions D8, D17, D31, logs 9, 15, 24): no instruction changes a general register, VF among
them, other than its destination, VF when it writes the flag, and `V[0]` to `V[x]` for `Fx65`. -/
def Obligations.RegistersOutsideDestinationsKeep : Prop :=
  ∀ (i : Instr) (s t : State) (r : RegIx), exec i s = .next t → ¬ writesReg i r → t.reg r = s.reg r

/-- 10_state.md R15: every instruction that is no transfer, skip or wait leaves `pc` at the address after it, also when it faults
(60_exceptions.md R163: the spec's decision D14, log 7). -/
def Obligations.OtherInstructionsFallThrough : Prop :=
  ∀ (i : Instr) (s t : State), exec i s = .next t → transfers i = false → t.pc = s.pc

/-- 10_state.md R20, 20_memory.md R40: only `Fx33` and `Fx55` write memory. -/
def Obligations.OnlyTwoInstructionsStore : Prop :=
  ∀ (i : Instr) (s t : State), exec i s = .next t → (∀ x, i ≠ .ldB x) → (∀ x, i ≠ .storeRegs x) → t.mem = s.mem

/-- 10_state.md R23, 44_display.md R132: nothing but `00E0` and `Dxyn` changes a pixel. -/
def Obligations.OnlyTwoInstructionsChangePixels : Prop :=
  ∀ (i : Instr) (s t : State), exec i s = .next t → i ≠ .cls → (∀ x y n, i ≠ .drw x y n) → t.fb = s.fb

/-- 10_state.md R17, R18 (that `00EE` leaves the entry it pops: the spec's decision D24, log 22): only `2nnn` writes the stack, and only
`2nnn` and `00EE` write `sp`. -/
def Obligations.OnlyCallAndReturnMoveTheStack : Prop :=
  ∀ (i : Instr) (s t : State), exec i s = .next t →
    ((∀ nnn, i ≠ .call nnn) → t.stack = s.stack) ∧ ((∀ nnn, i ≠ .call nnn) → i ≠ .ret → t.sp = s.sp)

/-- 10_state.md R13, R19: only `Annn`, `Fx1E` and `Fx29` write `I` (D19, log 17), only `Fx15` writes the delay timer, only `Fx18` the sound timer. -/
def Obligations.IndexAndTimersHaveTheirWriters : Prop :=
  ∀ (i : Instr) (s t : State), exec i s = .next t →
    ((∀ nnn, i ≠ .ldI nnn) → (∀ x, i ≠ .addI x) → (∀ x, i ≠ .ldF x) → t.I = s.I) ∧
    ((∀ x, i ≠ .ldDTVx x) → t.DT = s.DT) ∧ ((∀ x, i ≠ .ldSTVx x) → t.ST = s.ST)

/-- 10_state.md R24, R29 (and the model's own fields, log 1): no instruction writes the key latch, the inputs of a step, or the parameter. -/
def Obligations.NoInstructionWritesInputs : Prop :=
  ∀ (i : Instr) (s t : State), exec i s = .next t →
    t.key = s.key ∧ t.now = s.now ∧ t.rnd = s.rnd ∧ t.inputs = s.inputs ∧ t.draws = s.draws ∧ t.timeHz = s.timeHz

/-- 10_state.md R28, R33, R34: only `Fx07`, `Fx15` and `Fx18` depend on the time and only `Cxkk` on the random byte; every other instruction
does the same whatever they are. -/
def Obligations.TimeAndRandomReachOnlyTheirReaders : Prop :=
  ∀ (i : Instr) (s t : State) (n : Nat) (b : Byte), exec i s = .next t →
    ((∀ x, i ≠ .ldVxDT x) → (∀ x, i ≠ .ldDTVx x) → (∀ x, i ≠ .ldSTVx x) →
      exec i { s with now := n } = .next { t with now := n }) ∧
    ((∀ x kk, i ≠ .rnd x kk) → exec i { s with rnd := b } = .next { t with rnd := b })

/-- 10_state.md R24, 60_exceptions.md R167: only `Ex9E`, `ExA1` and `Fx0A` depend on the key latch; a key press alters no control flow by itself. -/
def Obligations.KeysReachOnlyTheirReaders : Prop :=
  ∀ (i : Instr) (s t : State) (keys : Vector Bool 16), exec i s = .next t →
    (∀ x, i ≠ .skp x) → (∀ x, i ≠ .sknp x) → (∀ x, i ≠ .ldVxK x) →
    exec i { s with key := keys } = .next { t with key := keys }
end

