-- ==== Sys2Proof/Laws/Decode.lean ====
section
/-!
SUPPORT. The fields of an encoded word, the word of its fields, and what a match under a mask says of the fields
(30_encoding.md R61, R62, R65).
-/

namespace Sys2Proof

/-! ### Bits of the three formats -/

theorem getLsbD_wordNNN (op : Nibble) (nnn : Addr) (i : Nat) :
    (wordNNN op nnn).getLsbD i = if i < 12 then nnn.getLsbD i else op.getLsbD (i - 12) :=
  BitVec.getLsbD_append

theorem getLsbD_wordXKK (op : Nibble) (x : RegIx) (kk : Byte) (i : Nat) :
    (wordXKK op x kk).getLsbD i =
      if i < 12 then (if i < 8 then kk.getLsbD i else x.getLsbD (i - 8)) else op.getLsbD (i - 12) := by
  have h := BitVec.getLsbD_append (x := op) (y := x ++ kk) (i := i)
  rw [BitVec.getLsbD_append (x := x) (y := kk)] at h
  exact h

theorem getLsbD_wordXYN (op : Nibble) (x y : RegIx) (n : Nibble) (i : Nat) :
    (wordXYN op x y n).getLsbD i =
      if i < 12 then (if i < 8 then (if i < 4 then n.getLsbD i else y.getLsbD (i - 4)) else x.getLsbD (i - 8))
      else op.getLsbD (i - 12) := by
  have h := BitVec.getLsbD_append (x := op) (y := x ++ (y ++ n)) (i := i)
  rw [BitVec.getLsbD_append (x := x) (y := y ++ n), BitVec.getLsbD_append (x := y) (y := n)] at h
  exact h

theorem getLsbD_composeWord (b0 b1 : Byte) (i : Nat) :
    (composeWord b0 b1).getLsbD i = if i < 8 then b1.getLsbD i else b0.getLsbD (i - 8) :=
  BitVec.getLsbD_append

/-! ### Fields of the three formats -/

@[simp] theorem fieldOp_wordNNN (op : Nibble) (nnn : Addr) : fieldOp (wordNNN op nnn) = op := by
  apply BitVec.eq_of_getLsbD_eq; intro i hi
  simp only [fieldOp, BitVec.getLsbD_extractLsb', getLsbD_wordNNN, hi, decide_true, Bool.true_and]
  split_ifs <;> first | omega | congr 1; omega

@[simp] theorem fieldNNN_wordNNN (op : Nibble) (nnn : Addr) : fieldNNN (wordNNN op nnn) = nnn := by
  apply BitVec.eq_of_getLsbD_eq; intro i hi
  simp only [fieldNNN, BitVec.getLsbD_extractLsb', getLsbD_wordNNN, hi, decide_true, Bool.true_and]
  split_ifs <;> first | omega | congr 1; omega

@[simp] theorem fieldOp_wordXKK (op : Nibble) (x : RegIx) (kk : Byte) : fieldOp (wordXKK op x kk) = op := by
  apply BitVec.eq_of_getLsbD_eq; intro i hi
  simp only [fieldOp, BitVec.getLsbD_extractLsb', getLsbD_wordXKK, hi, decide_true, Bool.true_and]
  split_ifs <;> first | omega | congr 1; omega

@[simp] theorem fieldX_wordXKK (op : Nibble) (x : RegIx) (kk : Byte) : fieldX (wordXKK op x kk) = x := by
  apply BitVec.eq_of_getLsbD_eq; intro i hi
  simp only [fieldX, BitVec.getLsbD_extractLsb', getLsbD_wordXKK, hi, decide_true, Bool.true_and]
  split_ifs <;> first | omega | congr 1; omega

@[simp] theorem fieldKK_wordXKK (op : Nibble) (x : RegIx) (kk : Byte) : fieldKK (wordXKK op x kk) = kk := by
  apply BitVec.eq_of_getLsbD_eq; intro i hi
  simp only [fieldKK, BitVec.getLsbD_extractLsb', getLsbD_wordXKK, hi, decide_true, Bool.true_and]
  split_ifs <;> first | omega | congr 1; omega

@[simp] theorem fieldOp_wordXYN (op : Nibble) (x y : RegIx) (n : Nibble) : fieldOp (wordXYN op x y n) = op := by
  apply BitVec.eq_of_getLsbD_eq; intro i hi
  simp only [fieldOp, BitVec.getLsbD_extractLsb', getLsbD_wordXYN, hi, decide_true, Bool.true_and]
  split_ifs <;> first | omega | congr 1; omega

@[simp] theorem fieldX_wordXYN (op : Nibble) (x y : RegIx) (n : Nibble) : fieldX (wordXYN op x y n) = x := by
  apply BitVec.eq_of_getLsbD_eq; intro i hi
  simp only [fieldX, BitVec.getLsbD_extractLsb', getLsbD_wordXYN, hi, decide_true, Bool.true_and]
  split_ifs <;> first | omega | congr 1; omega

@[simp] theorem fieldY_wordXYN (op : Nibble) (x y : RegIx) (n : Nibble) : fieldY (wordXYN op x y n) = y := by
  apply BitVec.eq_of_getLsbD_eq; intro i hi
  simp only [fieldY, BitVec.getLsbD_extractLsb', getLsbD_wordXYN, hi, decide_true, Bool.true_and]
  split_ifs <;> first | omega | congr 1; omega

@[simp] theorem fieldN_wordXYN (op : Nibble) (x y : RegIx) (n : Nibble) : fieldN (wordXYN op x y n) = n := by
  apply BitVec.eq_of_getLsbD_eq; intro i hi
  simp only [fieldN, BitVec.getLsbD_extractLsb', getLsbD_wordXYN, hi, decide_true, Bool.true_and]
  split_ifs <;> first | omega | congr 1; omega

/-! ### The word of its fields -/

theorem wordNNN_fields (w : Word) : wordNNN (fieldOp w) (fieldNNN w) = w := by
  apply BitVec.eq_of_getLsbD_eq; intro i hi
  simp only [getLsbD_wordNNN, fieldOp, fieldNNN, BitVec.getLsbD_extractLsb']
  split_ifs <;> rw [decide_eq_true (by omega), Bool.true_and] <;> congr 1 <;> omega

theorem wordXKK_fields (w : Word) : wordXKK (fieldOp w) (fieldX w) (fieldKK w) = w := by
  apply BitVec.eq_of_getLsbD_eq; intro i hi
  simp only [getLsbD_wordXKK, fieldOp, fieldX, fieldKK, BitVec.getLsbD_extractLsb']
  split_ifs <;> rw [decide_eq_true (by omega), Bool.true_and] <;> congr 1 <;> omega

theorem wordXYN_fields (w : Word) : wordXYN (fieldOp w) (fieldX w) (fieldY w) (fieldN w) = w := by
  apply BitVec.eq_of_getLsbD_eq; intro i hi
  simp only [getLsbD_wordXYN, fieldOp, fieldX, fieldY, fieldN, BitVec.getLsbD_extractLsb']
  split_ifs <;> rw [decide_eq_true (by omega), Bool.true_and] <;> congr 1 <;> omega

/-! ### Words of two bytes -/

@[simp] theorem composeWord_bytes (w : Word) : composeWord (highByte w) (lowByte w) = w := by
  apply BitVec.eq_of_getLsbD_eq; intro i hi
  simp only [getLsbD_composeWord, highByte, lowByte, BitVec.getLsbD_extractLsb']
  split_ifs <;> rw [decide_eq_true (by omega), Bool.true_and] <;> congr 1 <;> omega

/-- The composed word as a number: `mem[A] * 256 + mem[A + 1]` (20_memory.md R43). -/
theorem toNat_composeWord (b0 b1 : Byte) : (composeWord b0 b1).toNat = b0.toNat * 256 + b1.toNat := by
  have h : b1.toNat < 2 ^ 8 := b1.isLt
  rw [composeWord, BitVec.toNat_append, ← Nat.shiftLeft_add_eq_or_of_lt h, Nat.shiftLeft_eq]

/-! ### Matching under a mask -/

/-- A match under the mask of a whole family gives the top nibble. -/
theorem fieldOp_of_mask {w m c : Word} (h : w &&& m = c) (hm : fieldOp m = 0xF#4) : fieldOp w = fieldOp c := by
  have := congrArg fieldOp h
  rw [← this]
  simp only [fieldOp, BitVec.extractLsb'_and] at hm ⊢
  rw [hm]
  exact (BitVec.and_allOnes).symm

/-- A match under a mask that keeps the low nibble gives the low nibble. -/
theorem fieldN_of_mask {w m c : Word} (h : w &&& m = c) (hm : fieldN m = 0xF#4) : fieldN w = fieldN c := by
  have := congrArg fieldN h
  rw [← this]
  simp only [fieldN, BitVec.extractLsb'_and] at hm ⊢
  rw [hm]
  exact (BitVec.and_allOnes).symm

/-- A match under a mask that keeps the low byte gives the low byte. -/
theorem fieldKK_of_mask {w m c : Word} (h : w &&& m = c) (hm : fieldKK m = 0xFF#8) : fieldKK w = fieldKK c := by
  have := congrArg fieldKK h
  rw [← this]
  simp only [fieldKK, BitVec.extractLsb'_and] at hm ⊢
  rw [hm]
  exact (BitVec.and_allOnes).symm

end Sys2Proof
end

