-- ==== Sys2Proof/Laws/Memory.lean ====
section
/-!
SUPPORT. Memory: every operation keeps the canonical form; a read after a write; block writes and reads.
-/

namespace Sys2Proof.Machine

theorem Memory.nil_wf : Memory.wf [] := ⟨List.Pairwise.nil, by simp⟩

/-- Every cell of a written memory is the new cell or an old one. -/
theorem Memory.mem_write {m : Memory} {a : Nat} {v : Byte} {d : Host.Cell} (h : d ∈ Memory.write m a v) :
    (d = (a, v) ∧ v ≠ Memory.unlisted a) ∨ d ∈ m := by
  induction m with
  | nil =>
    simp only [Memory.write] at h
    split at h <;> simp_all
  | cons c rest ih =>
    simp only [Memory.write] at h
    split_ifs at h <;> simp only [List.mem_cons] at h ⊢ <;> tauto

/-- A write keeps the canonical form. -/
theorem Memory.write_wf {m : Memory} (hm : m.wf) {a : Nat} (ha : a < Config.memorySize) (v : Byte) :
    (Memory.write m a v).wf := by
  refine ⟨?_, fun d hd => ?_⟩
  · obtain ⟨hs, -⟩ := hm
    induction m with
    | nil =>
      simp only [Memory.write]
      split <;> simp
    | cons c rest ih =>
      obtain ⟨hc, hrest⟩ := List.pairwise_cons.1 hs
      simp only [Memory.write]
      split_ifs with h1 h2 h3 h4
      · exact hs
      · refine List.pairwise_cons.2 ⟨fun d hd => ?_, hs⟩
        rcases List.mem_cons.1 hd with rfl | hd
        · exact h1
        · exact Nat.lt_trans h1 (hc d hd)
      · exact hrest
      · exact List.pairwise_cons.2 ⟨fun d hd => h3 ▸ hc d hd, hrest⟩
      · refine List.pairwise_cons.2 ⟨fun d hd => ?_, ih hrest⟩
        rcases Memory.mem_write hd with ⟨rfl, -⟩ | hd
        · exact Nat.lt_of_le_of_ne (Nat.le_of_not_lt h1) h3
        · exact hc d hd
  · rcases Memory.mem_write hd with ⟨rfl, hv⟩ | hd
    · exact ⟨ha, hv⟩
    · exact hm.2 d hd

/-- Below every listed address a memory reads as unlisted. -/
theorem Memory.read_of_lt {m : Memory} {b : Nat} (h : ∀ d ∈ m, b < d.1) : m.read b = Memory.unlisted b := by
  induction m with
  | nil => rfl
  | cons c rest ih =>
    have hb := h c (by simp)
    rw [Memory.read, if_neg (by omega)]
    exact ih fun d hd => h d (by simp [hd])

/-- A read after a write gives the written value at the written address and the old value everywhere else. -/
theorem Memory.read_write {m : Memory} (hs : m.Pairwise (fun c d => c.1 < d.1)) (a : Nat) (v : Byte) (b : Nat) :
    (Memory.write m a v).read b = if b = a then v else m.read b := by
  induction m with
  | nil =>
    simp only [Memory.write]
    split_ifs with h1 h2 h3 <;> simp_all [Memory.read, eq_comm]
  | cons c rest ih =>
    obtain ⟨hc, hrest⟩ := List.pairwise_cons.1 hs
    simp only [Memory.write]
    split_ifs with h1 h2 h3 h4 h5 h6 h7
    · subst h3; subst h2
      exact Memory.read_of_lt fun d hd => by
        rcases List.mem_cons.1 hd with rfl | hd
        · exact h1
        · exact Nat.lt_trans h1 (hc d hd)
    · rfl
    · simp [Memory.read, h4]
    · simp [Memory.read, Ne.symm h4]
    · subst h7; subst h6; subst h5
      exact Memory.read_of_lt hc
    · simp [Memory.read, h5, Ne.symm h7]
    · rename_i h8; simp [Memory.read, h8]
    · rename_i h8; simp [Memory.read, h5, Ne.symm h8]
    · rename_i h8; subst h8; simp [Memory.read, h5, ih hrest]
    · rename_i h8; simp only [Memory.read, ih hrest, if_neg h8]

/-- A block write inside memory keeps the canonical form. -/
theorem Memory.writeBytes_wf {m : Memory} (hm : m.wf) {a : Nat} {bs : List Byte}
    (ha : a + bs.length ≤ Config.memorySize) : (m.writeBytes a bs).wf := by
  induction bs generalizing m a with
  | nil => exact hm
  | cons b bs ih =>
    simp only [List.length_cons] at ha
    exact ih (Memory.write_wf hm (by omega) b) (by omega)

/-- A read after a block write inside memory. -/
theorem Memory.read_writeBytes {m : Memory} (hm : m.wf) {a : Nat} {bs : List Byte}
    (ha : a + bs.length ≤ Config.memorySize) (b : Nat) :
    (m.writeBytes a bs).read b = if h : a ≤ b ∧ b - a < bs.length then bs[b - a]'h.2 else m.read b := by
  induction bs generalizing m a with
  | nil => simp [Memory.writeBytes]
  | cons v bs ih =>
    simp only [List.length_cons] at ha
    rw [Memory.writeBytes, ih (Memory.write_wf hm (by omega) v) (by omega), Memory.read_write hm.1]
    by_cases h1 : b = a
    · subst h1; simp
    · by_cases h2 : a + 1 ≤ b ∧ b - (a + 1) < bs.length
      · have h3 : a ≤ b ∧ b - a < bs.length + 1 := by omega
        have h4 : b - a = b - (a + 1) + 1 := by omega
        simp only [dif_pos h2, List.length_cons, dif_pos h3]
        simp [h4]
      · have h3 : ¬ (a ≤ b ∧ b - a < (v :: bs).length) := by simp only [List.length_cons]; omega
        rw [dif_neg h2, dif_neg h3, if_neg h1]

@[simp] theorem Memory.length_readBytes (m : Memory) (a n : Nat) : (m.readBytes a n).length = n := by
  simp [Memory.readBytes]

@[simp] theorem Memory.getElem_readBytes (m : Memory) (a n k : Nat) (h : k < (m.readBytes a n).length) :
    (m.readBytes a n)[k] = m.read (a + k) := by
  simp [Memory.readBytes]

/-- Reset memory is canonical (70_reset_and_hazards.md R191). -/
theorem resetMemory_wf {p : Params} (hp : p.programStart + p.program.length ≤ Config.memorySize) :
    (resetMemory p).wf :=
  Memory.writeBytes_wf (Memory.writeBytes_wf Memory.nil_wf (by simp [Config.memorySize])) hp

end Sys2Proof.Machine
end

