-- ==== Sys2Proof/Laws/State.lean ====
section
/-!
SUPPORT. What every update of the state does to every field: one lemma per field per update, true by definition, for simp.
The value of a field an update does change is given where it is plain; registers, stack pointer and stack have lemmas of
their own below and in Laws/Registers.lean.
-/

namespace Sys2Proof.Machine

variable (s : State)

/-! ### setReg -/
@[simp] theorem State.setReg_V (x : RegIx) (v : Byte) : (s.setReg x v).V = s.V.set x.toNat v x.isLt := rfl
@[simp] theorem State.setReg_I (x : RegIx) (v : Byte) : (s.setReg x v).I = s.I := rfl
@[simp] theorem State.setReg_pc (x : RegIx) (v : Byte) : (s.setReg x v).pc = s.pc := rfl
@[simp] theorem State.setReg_stack (x : RegIx) (v : Byte) : (s.setReg x v).stack = s.stack := rfl
@[simp] theorem State.setReg_sp (x : RegIx) (v : Byte) : (s.setReg x v).sp = s.sp := rfl
@[simp] theorem State.setReg_DT (x : RegIx) (v : Byte) : (s.setReg x v).DT = s.DT := rfl
@[simp] theorem State.setReg_ST (x : RegIx) (v : Byte) : (s.setReg x v).ST = s.ST := rfl
@[simp] theorem State.setReg_mem (x : RegIx) (v : Byte) : (s.setReg x v).mem = s.mem := rfl
@[simp] theorem State.setReg_fb (x : RegIx) (v : Byte) : (s.setReg x v).fb = s.fb := rfl
@[simp] theorem State.setReg_key (x : RegIx) (v : Byte) : (s.setReg x v).key = s.key := rfl
@[simp] theorem State.setReg_halted (x : RegIx) (v : Byte) : (s.setReg x v).halted = s.halted := rfl
@[simp] theorem State.setReg_fault (x : RegIx) (v : Byte) : (s.setReg x v).fault = s.fault := rfl
@[simp] theorem State.setReg_now (x : RegIx) (v : Byte) : (s.setReg x v).now = s.now := rfl
@[simp] theorem State.setReg_rnd (x : RegIx) (v : Byte) : (s.setReg x v).rnd = s.rnd := rfl
@[simp] theorem State.setReg_inputs (x : RegIx) (v : Byte) : (s.setReg x v).inputs = s.inputs := rfl
@[simp] theorem State.setReg_draws (x : RegIx) (v : Byte) : (s.setReg x v).draws = s.draws := rfl
@[simp] theorem State.setReg_timeHz (x : RegIx) (v : Byte) : (s.setReg x v).timeHz = s.timeHz := rfl

/-! ### setI -/
@[simp] theorem State.setI_V (v : Word) : (s.setI v).V = s.V := rfl
@[simp] theorem State.setI_I (v : Word) : (s.setI v).I = v := rfl
@[simp] theorem State.setI_pc (v : Word) : (s.setI v).pc = s.pc := rfl
@[simp] theorem State.setI_stack (v : Word) : (s.setI v).stack = s.stack := rfl
@[simp] theorem State.setI_sp (v : Word) : (s.setI v).sp = s.sp := rfl
@[simp] theorem State.setI_DT (v : Word) : (s.setI v).DT = s.DT := rfl
@[simp] theorem State.setI_ST (v : Word) : (s.setI v).ST = s.ST := rfl
@[simp] theorem State.setI_mem (v : Word) : (s.setI v).mem = s.mem := rfl
@[simp] theorem State.setI_fb (v : Word) : (s.setI v).fb = s.fb := rfl
@[simp] theorem State.setI_key (v : Word) : (s.setI v).key = s.key := rfl
@[simp] theorem State.setI_halted (v : Word) : (s.setI v).halted = s.halted := rfl
@[simp] theorem State.setI_fault (v : Word) : (s.setI v).fault = s.fault := rfl
@[simp] theorem State.setI_now (v : Word) : (s.setI v).now = s.now := rfl
@[simp] theorem State.setI_rnd (v : Word) : (s.setI v).rnd = s.rnd := rfl
@[simp] theorem State.setI_inputs (v : Word) : (s.setI v).inputs = s.inputs := rfl
@[simp] theorem State.setI_draws (v : Word) : (s.setI v).draws = s.draws := rfl
@[simp] theorem State.setI_timeHz (v : Word) : (s.setI v).timeHz = s.timeHz := rfl

/-! ### setPc -/
@[simp] theorem State.setPc_V (v : Word) : (s.setPc v).V = s.V := rfl
@[simp] theorem State.setPc_I (v : Word) : (s.setPc v).I = s.I := rfl
@[simp] theorem State.setPc_pc (v : Word) : (s.setPc v).pc = v := rfl
@[simp] theorem State.setPc_stack (v : Word) : (s.setPc v).stack = s.stack := rfl
@[simp] theorem State.setPc_sp (v : Word) : (s.setPc v).sp = s.sp := rfl
@[simp] theorem State.setPc_DT (v : Word) : (s.setPc v).DT = s.DT := rfl
@[simp] theorem State.setPc_ST (v : Word) : (s.setPc v).ST = s.ST := rfl
@[simp] theorem State.setPc_mem (v : Word) : (s.setPc v).mem = s.mem := rfl
@[simp] theorem State.setPc_fb (v : Word) : (s.setPc v).fb = s.fb := rfl
@[simp] theorem State.setPc_key (v : Word) : (s.setPc v).key = s.key := rfl
@[simp] theorem State.setPc_halted (v : Word) : (s.setPc v).halted = s.halted := rfl
@[simp] theorem State.setPc_fault (v : Word) : (s.setPc v).fault = s.fault := rfl
@[simp] theorem State.setPc_now (v : Word) : (s.setPc v).now = s.now := rfl
@[simp] theorem State.setPc_rnd (v : Word) : (s.setPc v).rnd = s.rnd := rfl
@[simp] theorem State.setPc_inputs (v : Word) : (s.setPc v).inputs = s.inputs := rfl
@[simp] theorem State.setPc_draws (v : Word) : (s.setPc v).draws = s.draws := rfl
@[simp] theorem State.setPc_timeHz (v : Word) : (s.setPc v).timeHz = s.timeHz := rfl

/-! ### advance -/
@[simp] theorem State.advance_V : s.advance.V = s.V := rfl
@[simp] theorem State.advance_I : s.advance.I = s.I := rfl
@[simp] theorem State.advance_pc : s.advance.pc = s.pc + 2 := rfl
@[simp] theorem State.advance_stack : s.advance.stack = s.stack := rfl
@[simp] theorem State.advance_sp : s.advance.sp = s.sp := rfl
@[simp] theorem State.advance_DT : s.advance.DT = s.DT := rfl
@[simp] theorem State.advance_ST : s.advance.ST = s.ST := rfl
@[simp] theorem State.advance_mem : s.advance.mem = s.mem := rfl
@[simp] theorem State.advance_fb : s.advance.fb = s.fb := rfl
@[simp] theorem State.advance_key : s.advance.key = s.key := rfl
@[simp] theorem State.advance_halted : s.advance.halted = s.halted := rfl
@[simp] theorem State.advance_fault : s.advance.fault = s.fault := rfl
@[simp] theorem State.advance_now : s.advance.now = s.now := rfl
@[simp] theorem State.advance_rnd : s.advance.rnd = s.rnd := rfl
@[simp] theorem State.advance_inputs : s.advance.inputs = s.inputs := rfl
@[simp] theorem State.advance_draws : s.advance.draws = s.draws := rfl
@[simp] theorem State.advance_timeHz : s.advance.timeHz = s.timeHz := rfl

/-! ### stepBack -/
@[simp] theorem State.stepBack_V : s.stepBack.V = s.V := rfl
@[simp] theorem State.stepBack_I : s.stepBack.I = s.I := rfl
@[simp] theorem State.stepBack_pc : s.stepBack.pc = s.pc - 2 := rfl
@[simp] theorem State.stepBack_stack : s.stepBack.stack = s.stack := rfl
@[simp] theorem State.stepBack_sp : s.stepBack.sp = s.sp := rfl
@[simp] theorem State.stepBack_DT : s.stepBack.DT = s.DT := rfl
@[simp] theorem State.stepBack_ST : s.stepBack.ST = s.ST := rfl
@[simp] theorem State.stepBack_mem : s.stepBack.mem = s.mem := rfl
@[simp] theorem State.stepBack_fb : s.stepBack.fb = s.fb := rfl
@[simp] theorem State.stepBack_key : s.stepBack.key = s.key := rfl
@[simp] theorem State.stepBack_halted : s.stepBack.halted = s.halted := rfl
@[simp] theorem State.stepBack_fault : s.stepBack.fault = s.fault := rfl
@[simp] theorem State.stepBack_now : s.stepBack.now = s.now := rfl
@[simp] theorem State.stepBack_rnd : s.stepBack.rnd = s.rnd := rfl
@[simp] theorem State.stepBack_inputs : s.stepBack.inputs = s.inputs := rfl
@[simp] theorem State.stepBack_draws : s.stepBack.draws = s.draws := rfl
@[simp] theorem State.stepBack_timeHz : s.stepBack.timeHz = s.timeHz := rfl

/-! ### store -/
@[simp] theorem State.store_V (a : Nat) (bs : List Byte) : (s.store a bs).V = s.V := rfl
@[simp] theorem State.store_I (a : Nat) (bs : List Byte) : (s.store a bs).I = s.I := rfl
@[simp] theorem State.store_pc (a : Nat) (bs : List Byte) : (s.store a bs).pc = s.pc := rfl
@[simp] theorem State.store_stack (a : Nat) (bs : List Byte) : (s.store a bs).stack = s.stack := rfl
@[simp] theorem State.store_sp (a : Nat) (bs : List Byte) : (s.store a bs).sp = s.sp := rfl
@[simp] theorem State.store_DT (a : Nat) (bs : List Byte) : (s.store a bs).DT = s.DT := rfl
@[simp] theorem State.store_ST (a : Nat) (bs : List Byte) : (s.store a bs).ST = s.ST := rfl
@[simp] theorem State.store_mem (a : Nat) (bs : List Byte) : (s.store a bs).mem = s.mem.writeBytes a bs := rfl
@[simp] theorem State.store_fb (a : Nat) (bs : List Byte) : (s.store a bs).fb = s.fb := rfl
@[simp] theorem State.store_key (a : Nat) (bs : List Byte) : (s.store a bs).key = s.key := rfl
@[simp] theorem State.store_halted (a : Nat) (bs : List Byte) : (s.store a bs).halted = s.halted := rfl
@[simp] theorem State.store_fault (a : Nat) (bs : List Byte) : (s.store a bs).fault = s.fault := rfl
@[simp] theorem State.store_now (a : Nat) (bs : List Byte) : (s.store a bs).now = s.now := rfl
@[simp] theorem State.store_rnd (a : Nat) (bs : List Byte) : (s.store a bs).rnd = s.rnd := rfl
@[simp] theorem State.store_inputs (a : Nat) (bs : List Byte) : (s.store a bs).inputs = s.inputs := rfl
@[simp] theorem State.store_draws (a : Nat) (bs : List Byte) : (s.store a bs).draws = s.draws := rfl
@[simp] theorem State.store_timeHz (a : Nat) (bs : List Byte) : (s.store a bs).timeHz = s.timeHz := rfl

/-! ### setFb -/
@[simp] theorem State.setFb_V (f : Framebuffer) : (s.setFb f).V = s.V := rfl
@[simp] theorem State.setFb_I (f : Framebuffer) : (s.setFb f).I = s.I := rfl
@[simp] theorem State.setFb_pc (f : Framebuffer) : (s.setFb f).pc = s.pc := rfl
@[simp] theorem State.setFb_stack (f : Framebuffer) : (s.setFb f).stack = s.stack := rfl
@[simp] theorem State.setFb_sp (f : Framebuffer) : (s.setFb f).sp = s.sp := rfl
@[simp] theorem State.setFb_DT (f : Framebuffer) : (s.setFb f).DT = s.DT := rfl
@[simp] theorem State.setFb_ST (f : Framebuffer) : (s.setFb f).ST = s.ST := rfl
@[simp] theorem State.setFb_mem (f : Framebuffer) : (s.setFb f).mem = s.mem := rfl
@[simp] theorem State.setFb_fb (f : Framebuffer) : (s.setFb f).fb = f := rfl
@[simp] theorem State.setFb_key (f : Framebuffer) : (s.setFb f).key = s.key := rfl
@[simp] theorem State.setFb_halted (f : Framebuffer) : (s.setFb f).halted = s.halted := rfl
@[simp] theorem State.setFb_fault (f : Framebuffer) : (s.setFb f).fault = s.fault := rfl
@[simp] theorem State.setFb_now (f : Framebuffer) : (s.setFb f).now = s.now := rfl
@[simp] theorem State.setFb_rnd (f : Framebuffer) : (s.setFb f).rnd = s.rnd := rfl
@[simp] theorem State.setFb_inputs (f : Framebuffer) : (s.setFb f).inputs = s.inputs := rfl
@[simp] theorem State.setFb_draws (f : Framebuffer) : (s.setFb f).draws = s.draws := rfl
@[simp] theorem State.setFb_timeHz (f : Framebuffer) : (s.setFb f).timeHz = s.timeHz := rfl

/-! ### loadBlock -/
@[simp] theorem State.loadBlock_I (a n : Nat) : (s.loadBlock a n).I = s.I := by simp only [State.loadBlock]
@[simp] theorem State.loadBlock_pc (a n : Nat) : (s.loadBlock a n).pc = s.pc := by simp only [State.loadBlock]
@[simp] theorem State.loadBlock_stack (a n : Nat) : (s.loadBlock a n).stack = s.stack := by simp only [State.loadBlock]
@[simp] theorem State.loadBlock_sp (a n : Nat) : (s.loadBlock a n).sp = s.sp := by simp only [State.loadBlock]
@[simp] theorem State.loadBlock_DT (a n : Nat) : (s.loadBlock a n).DT = s.DT := by simp only [State.loadBlock]
@[simp] theorem State.loadBlock_ST (a n : Nat) : (s.loadBlock a n).ST = s.ST := by simp only [State.loadBlock]
@[simp] theorem State.loadBlock_mem (a n : Nat) : (s.loadBlock a n).mem = s.mem := by simp only [State.loadBlock]
@[simp] theorem State.loadBlock_fb (a n : Nat) : (s.loadBlock a n).fb = s.fb := by simp only [State.loadBlock]
@[simp] theorem State.loadBlock_key (a n : Nat) : (s.loadBlock a n).key = s.key := by simp only [State.loadBlock]
@[simp] theorem State.loadBlock_halted (a n : Nat) : (s.loadBlock a n).halted = s.halted := by simp only [State.loadBlock]
@[simp] theorem State.loadBlock_fault (a n : Nat) : (s.loadBlock a n).fault = s.fault := by simp only [State.loadBlock]
@[simp] theorem State.loadBlock_now (a n : Nat) : (s.loadBlock a n).now = s.now := by simp only [State.loadBlock]
@[simp] theorem State.loadBlock_rnd (a n : Nat) : (s.loadBlock a n).rnd = s.rnd := by simp only [State.loadBlock]
@[simp] theorem State.loadBlock_inputs (a n : Nat) : (s.loadBlock a n).inputs = s.inputs := by simp only [State.loadBlock]
@[simp] theorem State.loadBlock_draws (a n : Nat) : (s.loadBlock a n).draws = s.draws := by simp only [State.loadBlock]
@[simp] theorem State.loadBlock_timeHz (a n : Nat) : (s.loadBlock a n).timeHz = s.timeHz := by simp only [State.loadBlock]

/-! ### push -/
@[simp] theorem State.push_V (v : Word) (h : s.sp.val < 16) : (s.push v h).V = s.V := rfl
@[simp] theorem State.push_I (v : Word) (h : s.sp.val < 16) : (s.push v h).I = s.I := rfl
@[simp] theorem State.push_pc (v : Word) (h : s.sp.val < 16) : (s.push v h).pc = s.pc := rfl
@[simp] theorem State.push_stack (v : Word) (h : s.sp.val < 16) : (s.push v h).stack = s.stack.set s.sp.val v h := rfl
@[simp] theorem State.push_DT (v : Word) (h : s.sp.val < 16) : (s.push v h).DT = s.DT := rfl
@[simp] theorem State.push_ST (v : Word) (h : s.sp.val < 16) : (s.push v h).ST = s.ST := rfl
@[simp] theorem State.push_mem (v : Word) (h : s.sp.val < 16) : (s.push v h).mem = s.mem := rfl
@[simp] theorem State.push_fb (v : Word) (h : s.sp.val < 16) : (s.push v h).fb = s.fb := rfl
@[simp] theorem State.push_key (v : Word) (h : s.sp.val < 16) : (s.push v h).key = s.key := rfl
@[simp] theorem State.push_halted (v : Word) (h : s.sp.val < 16) : (s.push v h).halted = s.halted := rfl
@[simp] theorem State.push_fault (v : Word) (h : s.sp.val < 16) : (s.push v h).fault = s.fault := rfl
@[simp] theorem State.push_now (v : Word) (h : s.sp.val < 16) : (s.push v h).now = s.now := rfl
@[simp] theorem State.push_rnd (v : Word) (h : s.sp.val < 16) : (s.push v h).rnd = s.rnd := rfl
@[simp] theorem State.push_inputs (v : Word) (h : s.sp.val < 16) : (s.push v h).inputs = s.inputs := rfl
@[simp] theorem State.push_draws (v : Word) (h : s.sp.val < 16) : (s.push v h).draws = s.draws := rfl
@[simp] theorem State.push_timeHz (v : Word) (h : s.sp.val < 16) : (s.push v h).timeHz = s.timeHz := rfl

/-! ### popPc -/
@[simp] theorem State.popPc_V (h : 0 < s.sp.val) : (s.popPc h).V = s.V := rfl
@[simp] theorem State.popPc_I (h : 0 < s.sp.val) : (s.popPc h).I = s.I := rfl
@[simp] theorem State.popPc_stack (h : 0 < s.sp.val) : (s.popPc h).stack = s.stack := rfl
@[simp] theorem State.popPc_DT (h : 0 < s.sp.val) : (s.popPc h).DT = s.DT := rfl
@[simp] theorem State.popPc_ST (h : 0 < s.sp.val) : (s.popPc h).ST = s.ST := rfl
@[simp] theorem State.popPc_mem (h : 0 < s.sp.val) : (s.popPc h).mem = s.mem := rfl
@[simp] theorem State.popPc_fb (h : 0 < s.sp.val) : (s.popPc h).fb = s.fb := rfl
@[simp] theorem State.popPc_key (h : 0 < s.sp.val) : (s.popPc h).key = s.key := rfl
@[simp] theorem State.popPc_halted (h : 0 < s.sp.val) : (s.popPc h).halted = s.halted := rfl
@[simp] theorem State.popPc_fault (h : 0 < s.sp.val) : (s.popPc h).fault = s.fault := rfl
@[simp] theorem State.popPc_now (h : 0 < s.sp.val) : (s.popPc h).now = s.now := rfl
@[simp] theorem State.popPc_rnd (h : 0 < s.sp.val) : (s.popPc h).rnd = s.rnd := rfl
@[simp] theorem State.popPc_inputs (h : 0 < s.sp.val) : (s.popPc h).inputs = s.inputs := rfl
@[simp] theorem State.popPc_draws (h : 0 < s.sp.val) : (s.popPc h).draws = s.draws := rfl
@[simp] theorem State.popPc_timeHz (h : 0 < s.sp.val) : (s.popPc h).timeHz = s.timeHz := rfl

/-! ### takeFault -/
@[simp] theorem State.takeFault_V (c : FaultCause) (a w : Word) (n : Nat) : (s.takeFault c a w n).V = s.V := rfl
@[simp] theorem State.takeFault_I (c : FaultCause) (a w : Word) (n : Nat) : (s.takeFault c a w n).I = s.I := rfl
@[simp] theorem State.takeFault_pc (c : FaultCause) (a w : Word) (n : Nat) : (s.takeFault c a w n).pc = s.pc := rfl
@[simp] theorem State.takeFault_stack (c : FaultCause) (a w : Word) (n : Nat) : (s.takeFault c a w n).stack = s.stack := rfl
@[simp] theorem State.takeFault_sp (c : FaultCause) (a w : Word) (n : Nat) : (s.takeFault c a w n).sp = s.sp := rfl
@[simp] theorem State.takeFault_DT (c : FaultCause) (a w : Word) (n : Nat) : (s.takeFault c a w n).DT = s.DT := rfl
@[simp] theorem State.takeFault_ST (c : FaultCause) (a w : Word) (n : Nat) : (s.takeFault c a w n).ST = s.ST := rfl
@[simp] theorem State.takeFault_mem (c : FaultCause) (a w : Word) (n : Nat) : (s.takeFault c a w n).mem = s.mem := rfl
@[simp] theorem State.takeFault_fb (c : FaultCause) (a w : Word) (n : Nat) : (s.takeFault c a w n).fb = s.fb := rfl
@[simp] theorem State.takeFault_key (c : FaultCause) (a w : Word) (n : Nat) : (s.takeFault c a w n).key = s.key := rfl
@[simp] theorem State.takeFault_halted (c : FaultCause) (a w : Word) (n : Nat) : (s.takeFault c a w n).halted = true := rfl
@[simp] theorem State.takeFault_fault (c : FaultCause) (a w : Word) (n : Nat) : (s.takeFault c a w n).fault = { cause := c.code, addr := a, word := w, info := BitVec.ofNat 32 n } := rfl
@[simp] theorem State.takeFault_now (c : FaultCause) (a w : Word) (n : Nat) : (s.takeFault c a w n).now = s.now := rfl
@[simp] theorem State.takeFault_rnd (c : FaultCause) (a w : Word) (n : Nat) : (s.takeFault c a w n).rnd = s.rnd := rfl
@[simp] theorem State.takeFault_inputs (c : FaultCause) (a w : Word) (n : Nat) : (s.takeFault c a w n).inputs = s.inputs := rfl
@[simp] theorem State.takeFault_draws (c : FaultCause) (a w : Word) (n : Nat) : (s.takeFault c a w n).draws = s.draws := rfl
@[simp] theorem State.takeFault_timeHz (c : FaultCause) (a w : Word) (n : Nat) : (s.takeFault c a w n).timeHz = s.timeHz := rfl

/-! ### raise -/
@[simp] theorem State.raise_V (c : FaultCause) (w : Word) (n : Nat) : (s.raise c w n).V = s.V := rfl
@[simp] theorem State.raise_I (c : FaultCause) (w : Word) (n : Nat) : (s.raise c w n).I = s.I := rfl
@[simp] theorem State.raise_pc (c : FaultCause) (w : Word) (n : Nat) : (s.raise c w n).pc = s.pc := rfl
@[simp] theorem State.raise_stack (c : FaultCause) (w : Word) (n : Nat) : (s.raise c w n).stack = s.stack := rfl
@[simp] theorem State.raise_sp (c : FaultCause) (w : Word) (n : Nat) : (s.raise c w n).sp = s.sp := rfl
@[simp] theorem State.raise_DT (c : FaultCause) (w : Word) (n : Nat) : (s.raise c w n).DT = s.DT := rfl
@[simp] theorem State.raise_ST (c : FaultCause) (w : Word) (n : Nat) : (s.raise c w n).ST = s.ST := rfl
@[simp] theorem State.raise_mem (c : FaultCause) (w : Word) (n : Nat) : (s.raise c w n).mem = s.mem := rfl
@[simp] theorem State.raise_fb (c : FaultCause) (w : Word) (n : Nat) : (s.raise c w n).fb = s.fb := rfl
@[simp] theorem State.raise_key (c : FaultCause) (w : Word) (n : Nat) : (s.raise c w n).key = s.key := rfl
@[simp] theorem State.raise_halted (c : FaultCause) (w : Word) (n : Nat) : (s.raise c w n).halted = true := rfl
@[simp] theorem State.raise_fault (c : FaultCause) (w : Word) (n : Nat) : (s.raise c w n).fault = { cause := c.code, addr := s.pc - 2, word := w, info := BitVec.ofNat 32 n } := rfl
@[simp] theorem State.raise_now (c : FaultCause) (w : Word) (n : Nat) : (s.raise c w n).now = s.now := rfl
@[simp] theorem State.raise_rnd (c : FaultCause) (w : Word) (n : Nat) : (s.raise c w n).rnd = s.rnd := rfl
@[simp] theorem State.raise_inputs (c : FaultCause) (w : Word) (n : Nat) : (s.raise c w n).inputs = s.inputs := rfl
@[simp] theorem State.raise_draws (c : FaultCause) (w : Word) (n : Nat) : (s.raise c w n).draws = s.draws := rfl
@[simp] theorem State.raise_timeHz (c : FaultCause) (w : Word) (n : Nat) : (s.raise c w n).timeHz = s.timeHz := rfl

/-! ### takeInput -/
@[simp] theorem State.takeInput_V : s.takeInput.V = s.V := rfl
@[simp] theorem State.takeInput_I : s.takeInput.I = s.I := rfl
@[simp] theorem State.takeInput_pc : s.takeInput.pc = s.pc := rfl
@[simp] theorem State.takeInput_stack : s.takeInput.stack = s.stack := rfl
@[simp] theorem State.takeInput_sp : s.takeInput.sp = s.sp := rfl
@[simp] theorem State.takeInput_DT : s.takeInput.DT = s.DT := rfl
@[simp] theorem State.takeInput_ST : s.takeInput.ST = s.ST := rfl
@[simp] theorem State.takeInput_mem : s.takeInput.mem = s.mem := rfl
@[simp] theorem State.takeInput_fb : s.takeInput.fb = s.fb := rfl
@[simp] theorem State.takeInput_key : s.takeInput.key = s.nextInput.key := rfl
@[simp] theorem State.takeInput_halted : s.takeInput.halted = s.halted := rfl
@[simp] theorem State.takeInput_fault : s.takeInput.fault = s.fault := rfl
@[simp] theorem State.takeInput_now : s.takeInput.now = s.now + s.nextInput.elapsed := rfl
@[simp] theorem State.takeInput_rnd : s.takeInput.rnd = s.nextInput.rnd := rfl
@[simp] theorem State.takeInput_inputs : s.takeInput.inputs = s.inputs.tail := rfl
@[simp] theorem State.takeInput_draws : s.takeInput.draws = if s.inputs.isEmpty then s.draws + 1 else s.draws := rfl
@[simp] theorem State.takeInput_timeHz : s.takeInput.timeHz = s.timeHz := rfl

/-! ### The stack pointer -/
@[simp] theorem State.push_sp_val (v : Word) (h : s.sp.val < 16) : (s.push v h).sp.val = s.sp.val + 1 := rfl
@[simp] theorem State.popPc_sp_val (h : 0 < s.sp.val) : (s.popPc h).sp.val = s.sp.val - 1 := rfl

/-! ### Timers -/
@[simp] theorem Timer.arm_stored (v : Byte) (t : Nat) : (Timer.arm v t).stored = v := rfl
@[simp] theorem Timer.arm_armed (v : Byte) (t : Nat) : (Timer.arm v t).armed = true := rfl
@[simp] theorem Timer.arm_armedAt (v : Byte) (t : Nat) : (Timer.arm v t).armedAt = t := rfl

end Sys2Proof.Machine
end

