-- ==== Sys2Proof/Laws/Ops.lean ====
section
/-!
SUPPORT. One lemma for each shared operation over registers, ranges, keys and the framebuffer that says what it does, for later
proofs to cite instead of unfolding it.
-/

namespace Sys2Proof.Machine

/-! ### Registers -/

/-- A register read after a register write. -/
theorem State.reg_setReg (s : State) (x : RegIx) (v : Byte) (r : RegIx) :
    (s.setReg x v).reg r = if r = x then v else s.reg r := by
  simp only [State.reg, State.setReg, Vector.getElem_set]
  by_cases h : r = x
  · simp [h]
  · have h' : ¬ x.toNat = r.toNat := fun e => h (BitVec.eq_of_toNat_eq e).symm
    simp [h, h']

@[simp] theorem State.reg_setReg_self (s : State) (x : RegIx) (v : Byte) : (s.setReg x v).reg x = v := by
  simp [State.reg_setReg]

theorem State.reg_setReg_ne (s : State) {x r : RegIx} (v : Byte) (h : r ≠ x) : (s.setReg x v).reg r = s.reg r := by
  simp [State.reg_setReg, h]

/-- Registers read the same in states with the same register file. -/
theorem State.reg_congr {s t : State} (h : t.V = s.V) (r : RegIx) : t.reg r = s.reg r := by
  simp [State.reg, h]

@[simp] theorem State.reg_setI (s : State) (v : Word) (r : RegIx) : (s.setI v).reg r = s.reg r := rfl
@[simp] theorem State.reg_setPc (s : State) (v : Word) (r : RegIx) : (s.setPc v).reg r = s.reg r := rfl
@[simp] theorem State.reg_advance (s : State) (r : RegIx) : s.advance.reg r = s.reg r := rfl
@[simp] theorem State.reg_stepBack (s : State) (r : RegIx) : s.stepBack.reg r = s.reg r := rfl
@[simp] theorem State.reg_store (s : State) (a : Nat) (bs : List Byte) (r : RegIx) : (s.store a bs).reg r = s.reg r := rfl
@[simp] theorem State.reg_setFb (s : State) (f : Framebuffer) (r : RegIx) : (s.setFb f).reg r = s.reg r := rfl
@[simp] theorem State.reg_raise (s : State) (c : FaultCause) (w : Word) (n : Nat) (r : RegIx) :
    (s.raise c w n).reg r = s.reg r := rfl
@[simp] theorem State.reg_takeInput (s : State) (r : RegIx) : s.takeInput.reg r = s.reg r := rfl

/-- The result and the flag of an instruction that writes the flag last (10_state.md R26). -/
theorem State.reg_setResultThenFlag (s : State) (x : RegIx) (result flag : Byte) (r : RegIx) :
    (s.setResultThenFlag x result flag).reg r = if r = regVF then flag else if r = x then result else s.reg r := by
  simp [State.setResultThenFlag, State.reg_setReg]

/-- The result and the flag of an instruction that writes the flag first (R26). -/
theorem State.reg_setFlagThenResult (s : State) (x : RegIx) (flag result : Byte) (r : RegIx) :
    (s.setFlagThenResult x flag result).reg r = if r = x then result else if r = regVF then flag else s.reg r := by
  simp [State.setFlagThenResult, State.reg_setReg]

/-- The registers after a block load (43_index_memory.md R125). -/
theorem State.reg_loadBlock (s : State) (a n : Nat) (r : RegIx) :
    (s.loadBlock a n).reg r = if r.toNat < n then s.mem.read (a + r.toNat) else s.reg r := by
  simp [State.reg, State.loadBlock]

theorem State.length_firstRegs (s : State) {n : Nat} (h : n ≤ 16) : (s.firstRegs n).length = n := by
  simp [State.firstRegs, h]

theorem State.getElem_firstRegs (s : State) (n k : Nat) (h : k < (s.firstRegs n).length) :
    (s.firstRegs n)[k] = s.V[k]'(by simp [State.firstRegs] at h; omega) := by
  simp [State.firstRegs]

/-! ### Ranges and key codes -/

/-- `CheckRange` passes exactly when the range is empty or ends at or below 0xFFF (20_memory.md R42). -/
theorem rangeFault_eq_none {base : Word} {count : Nat} :
    rangeFault base count = none ↔ count = 0 ∨ base.toNat + count ≤ Config.memorySize := by
  simp only [rangeFault, Config.memorySize]
  split_ifs with h
  · simp; omega
  · simp; omega

/-- An action under `CheckRange` either takes place, or the range reaches beyond memory and the fault of R42 is raised with the
highest address. -/
theorem State.withRange_cases (s : State) (count : Nat) (word : Word) (act : State) :
    ((count = 0 ∨ s.I.toNat + count ≤ Config.memorySize) ∧ s.withRange count word act = act) ∨
    ((0 < count ∧ Config.memorySize < s.I.toNat + count) ∧
      s.withRange count word act = s.raise .boundsFault word (s.I.toNat + count - 1)) := by
  by_cases h : 0 < count ∧ 0xFFF < s.I.toNat + count - 1
  · exact .inr ⟨by simp only [Config.memorySize]; omega, by simp [State.withRange, rangeFault, h]⟩
  · exact .inl ⟨by simp only [Config.memorySize]; omega, by simp only [State.withRange, rangeFault, if_neg h]⟩

/-- An action on a key code either takes place, or the value is no key code and the fault is raised (45_keys_timers.md R140). -/
theorem State.withKey_cases (s : State) (a : Byte) (word : Word) (act : Fin 16 → State) :
    (∃ h : a.toNat < 16, s.withKey a word act = act ⟨a.toNat, h⟩) ∨
    (15 < a.toNat ∧ s.withKey a word act = s.raise .keyIndexFault word a.toNat) := by
  by_cases h : a.toNat < 16
  · exact .inl ⟨h, by simp [State.withKey, keyCode, h]⟩
  · exact .inr ⟨by omega, by simp [State.withKey, keyCode, h]⟩

/-- No key is the lowest pressed one exactly when none is pressed (R143). -/
theorem lowestPressed_eq_none {key : Vector Bool 16} : lowestPressed key = none ↔ ∀ k : Fin 16, key[k] = false := by
  simp [lowestPressed, List.find?_eq_none]

/-- The lowest pressed key is pressed and no lower one is (R143). -/
theorem lowestPressed_eq_some {key : Vector Bool 16} {k : Fin 16} (h : lowestPressed key = some k) :
    key[k] = true ∧ ∀ j < k, key[j] = false := by
  obtain ⟨hk, as, bs, heq, has⟩ := List.find?_eq_some_iff_append.1 h
  refine ⟨hk, fun j hj => ?_⟩
  have hmem : j ∈ as := by
    have hj' : j ∈ as ++ k :: bs := heq ▸ List.mem_finRange j
    have hsort : (as ++ k :: bs).Pairwise (· < ·) := heq ▸ List.pairwise_lt_finRange 16
    rcases List.mem_append.1 hj' with hj' | hj'
    · exact hj'
    · rcases List.mem_cons.1 hj' with rfl | hj'
      · exact absurd hj (lt_irrefl _)
      · have := (List.pairwise_cons.1 (List.pairwise_append.1 hsort).2.1).1 j hj'
        exact absurd hj (by omega)
  simpa using has j hmem

/-! ### Framebuffer -/

/-- A pixel read after a pixel write. -/
theorem Framebuffer.pixel_setPixel (f : Framebuffer) (r r' : Fin 32) (c c' : Fin 64) (b : Bool) :
    (f.setPixel r c b).pixel r' c' = if r' = r ∧ c' = c then b else f.pixel r' c' := by
  simp only [Framebuffer.pixel, Framebuffer.setPixel, Fin.getElem_fin, Vector.getElem_set]
  by_cases hr : r' = r
  · subst hr
    by_cases hc : c' = c
    · subst hc; simp
    · have : ¬ c.val = c'.val := fun e => hc (Fin.ext e).symm
      simp [hc, this]
  · have : ¬ r.val = r'.val := fun e => hr (Fin.ext e).symm
    simp [hr, this]

@[simp] theorem Framebuffer.pixel_blank (r : Fin 32) (c : Fin 64) : Framebuffer.blank.pixel r c = false := by
  simp [Framebuffer.pixel, Framebuffer.blank]

/-- Framebuffers with the same pixels are the same. -/
theorem Framebuffer.ext_pixel {f g : Framebuffer} (h : ∀ r c, f.pixel r c = g.pixel r c) : f = g := by
  apply Vector.ext
  intro r hr
  apply Vector.ext
  intro c hc
  exact h ⟨r, hr⟩ ⟨c, hc⟩

/-- Toggling a pixel changes it and no other. -/
theorem pixel_togglePixel (r r' : Fin 32) (c c' : Fin 64) (d : Framebuffer × Bool) :
    (togglePixel r c d).1.pixel r' c' = (d.1.pixel r' c' != decide (r' = r ∧ c' = c)) := by
  simp only [togglePixel, Framebuffer.pixel_setPixel]
  by_cases h : r' = r ∧ c' = c
  · obtain ⟨rfl, rfl⟩ := h; simp
  · simp [h]

end Sys2Proof.Machine
end

