-- ==== Sys2Proof/Laws/Display.lean ====
section
/-!
SUPPORT. The sprite compositor says once what a draw does (44_display.md R131): it toggles the pixels under the set bits of the
sprite, each once, and reports a hit when one of them was on.
-/

namespace Sys2Proof.Machine

/-- Toggle a list of pixels in turn. -/
def toggleAll (l : List (Fin 32 × Fin 64)) (d : Framebuffer × Bool) : Framebuffer × Bool :=
  l.foldl (fun d p => togglePixel p.1 p.2 d) d

/-- Toggling pixels of which none is named twice: each named pixel changes, no other does, and the hit is recorded when a named
one was on. -/
theorem toggleAll_spec {l : List (Fin 32 × Fin 64)} (hl : l.Nodup) (d : Framebuffer × Bool) :
    (∀ r c, (toggleAll l d).1.pixel r c = (d.1.pixel r c != decide ((r, c) ∈ l))) ∧
    (toggleAll l d).2 = (d.2 || l.any (fun p => d.1.pixel p.1 p.2)) := by
  induction l generalizing d with
  | nil => simp [toggleAll]
  | cons p l ih =>
    obtain ⟨hp, hl⟩ := List.nodup_cons.1 hl
    obtain ⟨ihp, ihh⟩ := ih hl (togglePixel p.1 p.2 d)
    rw [show toggleAll (p :: l) d = toggleAll l (togglePixel p.1 p.2 d) from rfl]
    constructor
    · intro r c
      rw [ihp, pixel_togglePixel]
      by_cases h : (r, c) = p
      · subst h; simp [hp]
      · have : ¬ (r = p.1 ∧ c = p.2) := fun e => h (Prod.ext e.1 e.2)
        simp [h, this]
    · have hsame : l.any (fun q => (togglePixel p.1 p.2 d).1.pixel q.1 q.2) = l.any (fun q => d.1.pixel q.1 q.2) := by
        rw [Bool.eq_iff_iff, List.any_eq_true, List.any_eq_true]
        refine exists_congr fun q => and_congr_right fun hq => ?_
        have : ¬ (q.1 = p.1 ∧ q.2 = p.2) := fun e => hp ((Prod.ext e.1 e.2 : q = p) ▸ hq)
        rw [pixel_togglePixel]
        simp [this]
      rw [ihh, hsame]
      simp [togglePixel, Bool.or_assoc]

/-- The pixels under the set bits of one sprite byte, left to right. -/
def bytePixels (b : Byte) (cx r : Nat) : List (Fin 32 × Fin 64) :=
  ((List.range 8).filter (fun col => b.getLsbD (7 - col))).map (fun col => (wrapRow r, wrapCol (cx + col)))

/-- The pixels under the set bits of a sprite, top to bottom. -/
def rowsPixels (cx : Nat) : Nat → List Byte → List (Fin 32 × Fin 64)
  | _, [] => []
  | cy, b :: bs => bytePixels b cx cy ++ rowsPixels cx (cy + 1) bs

theorem drawByte_eq_toggleAll (b : Byte) (cx r : Nat) (d : Framebuffer × Bool) :
    drawByte b cx r d = toggleAll (bytePixels b cx r) d := by
  simp only [drawByte, toggleAll, bytePixels, List.foldl_map, List.foldl_filter]

theorem drawRows_eq_toggleAll (cx cy : Nat) (bs : List Byte) (d : Framebuffer × Bool) :
    drawRows cx cy bs d = toggleAll (rowsPixels cx cy bs) d := by
  induction bs generalizing cy d with
  | nil => rfl
  | cons b bs ih => simp [drawRows, rowsPixels, ih, drawByte_eq_toggleAll, toggleAll, List.foldl_append]

theorem mem_bytePixels {b : Byte} {cx r : Nat} {p : Fin 32 × Fin 64} :
    p ∈ bytePixels b cx r ↔ ∃ col < 8, b.getLsbD (7 - col) = true ∧ (wrapRow r, wrapCol (cx + col)) = p := by
  simp [bytePixels, and_assoc]

theorem mem_rowsPixels {cx cy : Nat} {bs : List Byte} {p : Fin 32 × Fin 64} :
    p ∈ rowsPixels cx cy bs ↔
      ∃ row, ∃ h : row < bs.length, ∃ col < 8, bs[row].getLsbD (7 - col) = true ∧
        (wrapRow (cy + row), wrapCol (cx + col)) = p := by
  induction bs generalizing cy with
  | nil => simp [rowsPixels]
  | cons b bs ih =>
    rw [rowsPixels, List.mem_append, mem_bytePixels, ih]
    constructor
    · rintro (⟨col, h1, h2, h3⟩ | ⟨row, h, col, h1, h2, h3⟩)
      · exact ⟨0, by simp, col, h1, by simpa using h2, by simpa using h3⟩
      · exact ⟨row + 1, by simpa using h, col, h1, by simpa using h2, by rw [← h3]; congr 2; omega⟩
    · rintro ⟨row, h, col, h1, h2, h3⟩
      cases row with
      | zero => exact .inl ⟨col, h1, by simpa using h2, by simpa using h3⟩
      | succ row =>
        exact .inr ⟨row, by simpa using h, col, h1, by simpa using h2, by rw [← h3]; congr 2; omega⟩

theorem wrapCol_inj {cx a b : Nat} (ha : a < 8) (hb : b < 8) (h : wrapCol (cx + a) = wrapCol (cx + b)) : a = b := by
  have := congrArg Fin.val h
  simp only [wrapCol] at this
  omega

theorem wrapRow_inj {cy a b : Nat} (ha : a < 32) (hb : b < 32) (h : wrapRow (cy + a) = wrapRow (cy + b)) : a = b := by
  have := congrArg Fin.val h
  simp only [wrapRow] at this
  omega

theorem nodup_bytePixels (b : Byte) (cx r : Nat) : (bytePixels b cx r).Nodup := by
  refine List.Nodup.map_on (fun x hx y hy h => ?_) (List.Nodup.filter _ List.nodup_range)
  simp only [List.mem_filter, List.mem_range] at hx hy
  exact wrapCol_inj hx.1 hy.1 (Prod.ext_iff.1 h).2

/-- A sprite at most as tall as the display names no pixel twice (R131). -/
theorem nodup_rowsPixels {cx cy : Nat} {bs : List Byte} (h : bs.length ≤ 32) : (rowsPixels cx cy bs).Nodup := by
  induction bs generalizing cy with
  | nil => exact List.nodup_nil
  | cons b bs ih =>
    simp only [List.length_cons] at h
    refine List.nodup_append.2 ⟨nodup_bytePixels b cx cy, ih (by omega), ?_⟩
    rintro p hp q hq rfl
    obtain ⟨col, -, -, h1⟩ := mem_bytePixels.1 hp
    obtain ⟨row, hrow, col', -, -, h2⟩ := mem_rowsPixels.1 hq
    have := (Prod.ext_iff.1 (h1.trans h2.symm)).1
    have := wrapRow_inj (cy := cy) (a := 0) (b := row + 1) (by omega) (by omega)
      (by rw [show cy + (row + 1) = cy + 1 + row by omega]; simpa using this)
    omega

/-- What the compositor does: the pixels under the sprite's set bits are toggled, no other is, and the hit says whether one of
them was on. -/
theorem drawRows_spec {cx cy : Nat} {bs : List Byte} (h : bs.length ≤ 32) (f : Framebuffer) :
    (∀ r c, (drawRows cx cy bs (f, false)).1.pixel r c = (f.pixel r c != decide ((r, c) ∈ rowsPixels cx cy bs))) ∧
    (drawRows cx cy bs (f, false)).2 = (rowsPixels cx cy bs).any (fun p => f.pixel p.1 p.2) := by
  rw [drawRows_eq_toggleAll]
  simpa using toggleAll_spec (nodup_rowsPixels h) (f, false)

end Sys2Proof.Machine
end

