-- ==== Sys2Proof/Laws/PerInstr.lean ====
section
/-!
SUPPORT. Facts about every instruction as syntax, one lemma per constructor. TopNibble: the encoded word carries the top nibble of
the instruction's family (30_encoding.md R64, R65).
-/

namespace Sys2Proof

/-- The family of an instruction, its top nibble (R64, R65). -/
def Instr.family : Instr → Nibble
  | .cls => 0x0#4
  | .ret => 0x0#4
  | .sys _ => 0x0#4
  | .jp _ => 0x1#4
  | .call _ => 0x2#4
  | .seImm _ _ => 0x3#4
  | .sneImm _ _ => 0x4#4
  | .seReg _ _ _ => 0x5#4
  | .ldImm _ _ => 0x6#4
  | .addImm _ _ => 0x7#4
  | .ldReg _ _ => 0x8#4
  | .orReg _ _ => 0x8#4
  | .andReg _ _ => 0x8#4
  | .xorReg _ _ => 0x8#4
  | .addReg _ _ => 0x8#4
  | .subReg _ _ => 0x8#4
  | .shr _ _ => 0x8#4
  | .subnReg _ _ => 0x8#4
  | .shl _ _ => 0x8#4
  | .nop8 _ _ _ => 0x8#4
  | .sneReg _ _ _ => 0x9#4
  | .ldI _ => 0xA#4
  | .jpV0 _ => 0xB#4
  | .rnd _ _ => 0xC#4
  | .drw _ _ _ => 0xD#4
  | .skp _ => 0xE#4
  | .sknp _ => 0xE#4
  | .nopE _ _ => 0xE#4
  | .ldVxDT _ => 0xF#4
  | .ldVxK _ => 0xF#4
  | .ldDTVx _ => 0xF#4
  | .ldSTVx _ => 0xF#4
  | .addI _ => 0xF#4
  | .ldF _ => 0xF#4
  | .ldB _ => 0xF#4
  | .storeRegs _ => 0xF#4
  | .loadRegs _ => 0xF#4
  | .nopF _ _ => 0xF#4

/-- The top nibble of the encoded word is the family's. -/
def Laws.TopNibble.Statement (i : Instr) : Prop := fieldOp (encode i) = i.family

theorem Laws.TopNibble.cls : Laws.TopNibble.Statement (.cls) := rfl
theorem Laws.TopNibble.ret : Laws.TopNibble.Statement (.ret) := rfl
theorem Laws.TopNibble.sys (nnn : Addr) : Laws.TopNibble.Statement (.sys nnn) := fieldOp_wordNNN _ _
theorem Laws.TopNibble.jp (nnn : Addr) : Laws.TopNibble.Statement (.jp nnn) := fieldOp_wordNNN _ _
theorem Laws.TopNibble.call (nnn : Addr) : Laws.TopNibble.Statement (.call nnn) := fieldOp_wordNNN _ _
theorem Laws.TopNibble.seImm (x : RegIx) (kk : Byte) : Laws.TopNibble.Statement (.seImm x kk) := fieldOp_wordXKK _ _ _
theorem Laws.TopNibble.sneImm (x : RegIx) (kk : Byte) : Laws.TopNibble.Statement (.sneImm x kk) := fieldOp_wordXKK _ _ _
theorem Laws.TopNibble.seReg (x y : RegIx) (n : Nibble) : Laws.TopNibble.Statement (.seReg x y n) := fieldOp_wordXYN _ _ _ _
theorem Laws.TopNibble.ldImm (x : RegIx) (kk : Byte) : Laws.TopNibble.Statement (.ldImm x kk) := fieldOp_wordXKK _ _ _
theorem Laws.TopNibble.addImm (x : RegIx) (kk : Byte) : Laws.TopNibble.Statement (.addImm x kk) := fieldOp_wordXKK _ _ _
theorem Laws.TopNibble.ldReg (x y : RegIx) : Laws.TopNibble.Statement (.ldReg x y) := fieldOp_wordXYN _ _ _ _
theorem Laws.TopNibble.orReg (x y : RegIx) : Laws.TopNibble.Statement (.orReg x y) := fieldOp_wordXYN _ _ _ _
theorem Laws.TopNibble.andReg (x y : RegIx) : Laws.TopNibble.Statement (.andReg x y) := fieldOp_wordXYN _ _ _ _
theorem Laws.TopNibble.xorReg (x y : RegIx) : Laws.TopNibble.Statement (.xorReg x y) := fieldOp_wordXYN _ _ _ _
theorem Laws.TopNibble.addReg (x y : RegIx) : Laws.TopNibble.Statement (.addReg x y) := fieldOp_wordXYN _ _ _ _
theorem Laws.TopNibble.subReg (x y : RegIx) : Laws.TopNibble.Statement (.subReg x y) := fieldOp_wordXYN _ _ _ _
theorem Laws.TopNibble.shr (x y : RegIx) : Laws.TopNibble.Statement (.shr x y) := fieldOp_wordXYN _ _ _ _
theorem Laws.TopNibble.subnReg (x y : RegIx) : Laws.TopNibble.Statement (.subnReg x y) := fieldOp_wordXYN _ _ _ _
theorem Laws.TopNibble.shl (x y : RegIx) : Laws.TopNibble.Statement (.shl x y) := fieldOp_wordXYN _ _ _ _
theorem Laws.TopNibble.nop8 (x y : RegIx) (n : Nibble) : Laws.TopNibble.Statement (.nop8 x y n) := fieldOp_wordXYN _ _ _ _
theorem Laws.TopNibble.sneReg (x y : RegIx) (n : Nibble) : Laws.TopNibble.Statement (.sneReg x y n) := fieldOp_wordXYN _ _ _ _
theorem Laws.TopNibble.ldI (nnn : Addr) : Laws.TopNibble.Statement (.ldI nnn) := fieldOp_wordNNN _ _
theorem Laws.TopNibble.jpV0 (nnn : Addr) : Laws.TopNibble.Statement (.jpV0 nnn) := fieldOp_wordNNN _ _
theorem Laws.TopNibble.rnd (x : RegIx) (kk : Byte) : Laws.TopNibble.Statement (.rnd x kk) := fieldOp_wordXKK _ _ _
theorem Laws.TopNibble.drw (x y : RegIx) (n : Nibble) : Laws.TopNibble.Statement (.drw x y n) := fieldOp_wordXYN _ _ _ _
theorem Laws.TopNibble.skp (x : RegIx) : Laws.TopNibble.Statement (.skp x) := fieldOp_wordXKK _ _ _
theorem Laws.TopNibble.sknp (x : RegIx) : Laws.TopNibble.Statement (.sknp x) := fieldOp_wordXKK _ _ _
theorem Laws.TopNibble.nopE (x : RegIx) (kk : Byte) : Laws.TopNibble.Statement (.nopE x kk) := fieldOp_wordXKK _ _ _
theorem Laws.TopNibble.ldVxDT (x : RegIx) : Laws.TopNibble.Statement (.ldVxDT x) := fieldOp_wordXKK _ _ _
theorem Laws.TopNibble.ldVxK (x : RegIx) : Laws.TopNibble.Statement (.ldVxK x) := fieldOp_wordXKK _ _ _
theorem Laws.TopNibble.ldDTVx (x : RegIx) : Laws.TopNibble.Statement (.ldDTVx x) := fieldOp_wordXKK _ _ _
theorem Laws.TopNibble.ldSTVx (x : RegIx) : Laws.TopNibble.Statement (.ldSTVx x) := fieldOp_wordXKK _ _ _
theorem Laws.TopNibble.addI (x : RegIx) : Laws.TopNibble.Statement (.addI x) := fieldOp_wordXKK _ _ _
theorem Laws.TopNibble.ldF (x : RegIx) : Laws.TopNibble.Statement (.ldF x) := fieldOp_wordXKK _ _ _
theorem Laws.TopNibble.ldB (x : RegIx) : Laws.TopNibble.Statement (.ldB x) := fieldOp_wordXKK _ _ _
theorem Laws.TopNibble.storeRegs (x : RegIx) : Laws.TopNibble.Statement (.storeRegs x) := fieldOp_wordXKK _ _ _
theorem Laws.TopNibble.loadRegs (x : RegIx) : Laws.TopNibble.Statement (.loadRegs x) := fieldOp_wordXKK _ _ _
theorem Laws.TopNibble.nopF (x : RegIx) (kk : Byte) : Laws.TopNibble.Statement (.nopF x kk) := fieldOp_wordXKK _ _ _

end Sys2Proof
end

