-- ==== Sys2Proof/Laws/Step.lean ====
section
/-!
SUPPORT. What a step can do, said once: fetch, the inputs of a step, and the cases of the engine's step.
-/

namespace Sys2Proof.Machine

/-- Inside memory a fetch gives the word of the two bytes at `pc` (20_memory.md R43). -/
theorem State.fetch_of_le {s : State} (h : s.pc.toNat ≤ 0xFFE) :
    s.fetch = some (composeWord (s.mem.read s.pc.toNat) (s.mem.read (s.pc.toNat + 1))) := by
  simp [State.fetch, h]

/-- Beyond 0xFFE a fetch gives nothing (R44). -/
theorem State.fetch_of_gt {s : State} (h : 0xFFE < s.pc.toNat) : s.fetch = none := by
  simp [State.fetch, Nat.not_le.2 h]

@[simp] theorem State.fetch_takeInput (s : State) : s.takeInput.fetch = s.fetch := rfl

/-- The engine's step, by case: halted, fetch beyond memory, a word without an instruction, or an instruction executed after the
advance of `pc` (R43, R44; 60_exceptions.md R162, R164). -/
theorem engineStep_cases (s : State) :
    (s.halted = true ∧ engineStep s = .next s) ∨
    (s.halted = false ∧ 0xFFE < s.pc.toNat ∧
      engineStep s = .next (s.takeFault .fetchBoundsFault s.pc 0 s.pc.toNat)) ∨
    (∃ w, s.halted = false ∧ s.pc.toNat ≤ 0xFFE ∧ s.fetch = some w ∧ decodeWord w = none ∧
      engineStep s = .next (s.advance.raise .decodeFault w w.toNat)) ∨
    (∃ w i, s.halted = false ∧ s.pc.toNat ≤ 0xFFE ∧ s.fetch = some w ∧ decodeWord w = some i ∧
      engineStep s = exec i s.advance) := by
  by_cases hh : s.halted = true
  · exact .inl ⟨hh, by simp only [engineStep, hh, if_true]⟩
  · have hh : s.halted = false := by simpa using hh
    refine .inr ?_
    by_cases hp : s.pc.toNat ≤ 0xFFE
    · have hf := State.fetch_of_le hp
      refine .inr ?_
      cases hd : decodeWord (composeWord (s.mem.read s.pc.toNat) (s.mem.read (s.pc.toNat + 1))) with
      | none => exact .inl ⟨_, hh, hp, hf, hd, by simp only [engineStep, hh, hf, hd]; rfl⟩
      | some i => exact .inr ⟨_, i, hh, hp, hf, hd, by simp only [engineStep, hh, hf, hd]; rfl⟩
    · have hp : 0xFFE < s.pc.toNat := by omega
      exact .inl ⟨hh, hp, by simp only [engineStep, hh, State.fetch_of_gt hp]; rfl⟩

end Sys2Proof.Machine
end

