-- ==== Sys2Proof/Tests/Slice0.lean ====
section
/-!
SUPPORT. The model's own tests, with expected results from 95_test_vectors.md and the rules' examples, and for every statement
with hypotheses a witness that meets them all, one per clause, at the boundary of its range.
-/

namespace Sys2Proof.Tests.Slice0

open Sys2Proof Sys2Proof.Machine

/-! ## Helpers -/

/-- The next state of an outcome. -/
def st (o : Host.Outcome State Fault Refusal) : State :=
  match o with
  | .next s => s
  | .fault _ => State.reset
  | .refused _ => State.reset

/-- No time, no key, random byte 0. -/
def quiet : StepInput := { elapsed := 0, key := Vector.replicate 16 false, rnd := 0 }

/-- Only the keys of the list are pressed. -/
def keys (ks : List (Fin 16)) : Vector Bool 16 := Vector.ofFn (fun k => decide (k ∈ ks))

/-- The reset state, with one quiet input for the next step. -/
def s0 : State := { State.reset with inputs := [quiet] }

/-- One step that executes the word `w`. -/
def run (s : State) (w : Nat) : State := st (step (s.withFetchWord 16 w))

/-- The state with `V[1] = a` and `V[2] = b`, as the vectors of section 2.4 start. -/
def ab (a b : Byte) : State := (s0.setReg 1 a).setReg 2 b

/-- The pixels on, as pairs of row and column. -/
def lit (f : Framebuffer) (r : Fin 32) : List (Fin 64) := (List.finRange 64).filter (fun c => f.pixel r c)

/-- The fault record as numbers. -/
def faultOf (s : State) : Nat × Nat × Nat × Nat :=
  (s.fault.cause.toNat, s.fault.addr.toNat, s.fault.word.toNat, s.fault.info.toNat)

/-! ## WellFormed: an ill-formed term for each check -/

theorem test_wf_refuses_sys_0E0 : (Instr.sys 0x0E0).wf = false := by decide
theorem test_wf_refuses_sys_0EE : (Instr.sys 0x0EE).wf = false := by decide
theorem test_wf_refuses_nop8_of_each_defined_nibble :
    ∀ n ∈ [0x0#4, 0x1, 0x2, 0x3, 0x4, 0x5, 0x6, 0x7, 0xE], (Instr.nop8 1 2 n).wf = false := by decide
theorem test_wf_refuses_nopE_of_each_defined_byte : ∀ kk ∈ [0x9E#8, 0xA1], (Instr.nopE 1 kk).wf = false := by decide
theorem test_wf_refuses_nopF_of_each_defined_byte :
    ∀ kk ∈ [0x07#8, 0x0A, 0x15, 0x18, 0x1E, 0x29, 0x33, 0x55, 0x65], (Instr.nopF 1 kk).wf = false := by decide
theorem test_wf_accepts_the_others :
    (Instr.sys 0x0EF).wf ∧ (Instr.nop8 1 2 0xF).wf ∧ (Instr.nopE 1 0x9F).wf ∧ (Instr.nopF 1 0x75).wf ∧ (Instr.seReg 1 2 7).wf := by
  decide

/-! ## Decode: words written out from 30_encoding.md R65 and vectors F2, F3 -/

theorem test_decode_family0 :
    decodeWord 0x00E0 = some .cls ∧ decodeWord 0x00EE = some .ret ∧ decodeWord 0x00E1 = some (.sys 0x0E1) ∧
    decodeWord 0x0000 = some (.sys 0) ∧ decodeWord 0x0E00 = some (.sys 0xE00) := by decide
theorem test_decode_jumps :
    decodeWord 0x1234 = some (.jp 0x234) ∧ decodeWord 0x2500 = some (.call 0x500) ∧ decodeWord 0xB123 = some (.jpV0 0x123) := by
  decide
theorem test_decode_skips :
    decodeWord 0x3C5A = some (.seImm 0xC 0x5A) ∧ decodeWord 0x4311 = some (.sneImm 3 0x11) ∧
    decodeWord 0x5120 = some (.seReg 1 2 0) ∧ decodeWord 0x5127 = some (.seReg 1 2 7) ∧
    decodeWord 0x912F = some (.sneReg 1 2 0xF) := by decide
theorem test_decode_immediates :
    decodeWord 0x6A7F = some (.ldImm 0xA 0x7F) ∧ decodeWord 0x70FF = some (.addImm 0 0xFF) ∧
    decodeWord 0xA30C = some (.ldI 0x30C) ∧ decodeWord 0xC30F = some (.rnd 3 0x0F) ∧ decodeWord 0xD12A = some (.drw 1 2 0xA) := by
  decide
theorem test_decode_family8 :
    decodeWord 0x8120 = some (.ldReg 1 2) ∧ decodeWord 0x8121 = some (.orReg 1 2) ∧ decodeWord 0x8122 = some (.andReg 1 2) ∧
    decodeWord 0x8123 = some (.xorReg 1 2) ∧ decodeWord 0x8124 = some (.addReg 1 2) ∧ decodeWord 0x8125 = some (.subReg 1 2) ∧
    decodeWord 0x8126 = some (.shr 1 2) ∧ decodeWord 0x8127 = some (.subnReg 1 2) ∧ decodeWord 0x812E = some (.shl 1 2) ∧
    decodeWord 0x8128 = some (.nop8 1 2 8) ∧ decodeWord 0x812F = some (.nop8 1 2 0xF) := by decide
theorem test_decode_familyE :
    decodeWord 0xE19E = some (.skp 1) ∧ decodeWord 0xE1A1 = some (.sknp 1) ∧ decodeWord 0xE19F = some (.nopE 1 0x9F) ∧
    decodeWord 0xE000 = some (.nopE 0 0) := by decide
theorem test_decode_familyF :
    decodeWord 0xF107 = some (.ldVxDT 1) ∧ decodeWord 0xF20A = some (.ldVxK 2) ∧ decodeWord 0xF315 = some (.ldDTVx 3) ∧
    decodeWord 0xF418 = some (.ldSTVx 4) ∧ decodeWord 0xF51E = some (.addI 5) ∧ decodeWord 0xF629 = some (.ldF 6) ∧
    decodeWord 0xF733 = some (.ldB 7) ∧ decodeWord 0xF855 = some (.storeRegs 8) ∧ decodeWord 0xF965 = some (.loadRegs 9) ∧
    decodeWord 0xF175 = some (.nopF 1 0x75) ∧ decodeWord 0xFFFF = some (.nopF 0xF 0xFF) := by decide
theorem test_decode_big_endian_bytes : decodeTableWord 16 0x1234 = some (.jp 0x234) := by decide
theorem test_decode_rejects_one_byte : decodeBytes [0x12] = .error .truncated := by rfl

/-! ## Fetch and reset (vectors F4 to F6, 70_reset_and_hazards.md R190 to R196) -/

theorem test_F4_last_word_of_memory :
    (run { s0 with pc := 0xFFE } 0x6007).reg 0 = 7 ∧ (run { s0 with pc := 0xFFE } 0x6007).pc = 0x1000 := by decide
theorem test_F4_then_fetch_bounds :
    (st (step { s0 with pc := 0x1000 })).halted ∧ faultOf (st (step { s0 with pc := 0x1000 })) = (4, 0x1000, 0, 0x1000) ∧
    (st (step { s0 with pc := 0x1000 })).pc = 0x1000 := by decide
theorem test_F5_fetch_bounds_at_FFF : faultOf (st (step { s0 with pc := 0xFFF })) = (4, 0xFFF, 0, 0xFFF) := by decide
theorem test_F6_odd_pc : (run { s0 with pc := 0x203 } 0x612A).pc = 0x205 := by decide
theorem test_reset_loads_program :
    ((st (State.resetWith { defaultParams with program := [0x60, 0x05] })).fetch = some 0x6005) ∧
    (st (State.resetWith { defaultParams with program := [0x60, 0x05] })).mem.read 0x4F = 0x80 := by decide
theorem test_reset_refuses_illegal_parameters :
    State.resetWith { defaultParams with programStart := 0x1FF } = .refused .illegalParameter ∧
    State.resetWith { defaultParams with timeHz := 0 } = .refused .illegalParameter := ⟨rfl, rfl⟩
theorem test_write_of_unlisted_value_removes_the_cell :
    Memory.write [(0x000, 0x55), (0x300, 7)] 0x300 0 = [(0x000, 0x55)] ∧ Memory.write [(0x000, 0x55)] 0 0xF0 = [] := by decide

/-! ## Control transfer (T1 to T10) -/

theorem test_T1_ret :
    (run { s0 with pc := 0x212, sp := 1, stack := s0.stack.set 0 0x20A } 0x00EE).pc = 0x20A ∧
    (run { s0 with pc := 0x212, sp := 1, stack := s0.stack.set 0 0x20A } 0x00EE).sp = 0 := by decide
theorem test_T3_underflow : faultOf (run s0 0x00EE) = (3, 0x200, 0x00EE, 0) ∧ (run s0 0x00EE).pc = 0x202 := by decide
theorem test_T4_sys : (run s0 0x0300).pc = 0x300 ∧ (run s0 0x0300).sp = 0 ∧ (run s0 0x00EF).pc = 0x0EF := by decide
theorem test_T5_jp : (run s0 0x1ABC).pc = 0xABC ∧ (run s0 0x1FFF).pc = 0xFFF ∧ (run s0 0x1FFF).halted = false := by decide
theorem test_T7_sixteenth_call :
    (run { s0 with pc := 0x400, sp := 15 } 0x2500).stack[15] = 0x402 ∧ (run { s0 with pc := 0x400, sp := 15 } 0x2500).sp = 16 ∧
    (run { s0 with pc := 0x400, sp := 15 } 0x2500).pc = 0x500 := by decide
theorem test_T8_overflow :
    faultOf (run { s0 with pc := 0x400, sp := 16 } 0x2500) = (2, 0x400, 0x2500, 16) ∧
    (run { s0 with pc := 0x400, sp := 16 } 0x2500).pc = 0x402 := by decide
theorem test_T10_jump_with_offset :
    (run ((s0.setReg 0 0x10).setReg 1 0x77) 0xB1F0).pc = 0x200 ∧ (run (s0.setReg 0 0xFF) 0xBFFF).pc = 0x10FE := by decide

/-! ## Skips (K1 to K6) -/

theorem test_K1_K2_se_imm :
    (run { s0 with pc := 0x208 } 0x3000).pc = 0x20C ∧ (run ({ s0 with pc := 0x208 }.setReg 0 1) 0x3000).pc = 0x20A ∧
    (run (s0.setReg 0xF 0xFF) 0x3FFF).pc = 0x204 := by decide
theorem test_K3_sne_imm : (run (s0.setReg 3 0x10) 0x4311).pc = 0x204 ∧ (run (s0.setReg 3 0x10) 0x4310).pc = 0x202 := by decide
theorem test_K4_se_reg :
    (run (ab 7 7) 0x5127).pc = 0x204 ∧ (run (ab 7 8) 0x5120).pc = 0x202 ∧ (run (ab 7 8) 0x5110).pc = 0x204 := by decide
theorem test_K5_sne_reg :
    (run (ab 7 8) 0x912F).pc = 0x204 ∧ (run (ab 7 7) 0x9120).pc = 0x202 ∧ (run (ab 7 8) 0x9110).pc = 0x202 := by decide
theorem test_K6_skip_past_memory : (run { s0 with pc := 0xFFE } 0x3000).pc = 0x1002 := by decide

/-! ## Registers (A1 to A18) -/

theorem test_A1_ld_imm : (run s0 0x61FA).reg 1 = 0xFA ∧ (run s0 0x6FAB).reg 0xF = 0xAB := by decide
theorem test_A2_add_imm :
    (run ((s0.setReg 0 0xFF).setReg 0xF 5) 0x7002).V = ((s0.setReg 0 1).setReg 0xF 5).V := by decide
theorem test_A3_ld_reg : (run (ab 0 0x33) 0x8120).V = (ab 0x33 0x33).V := by decide
theorem test_A4_or : (run ((ab 0xF0 0x0F).setReg 0xF 1) 0x8121).V = ((ab 0xFF 0x0F).setReg 0xF 1).V := by decide
theorem test_A5_and : (run ((ab 0xF3 0x3C).setReg 0xF 9) 0x8122).V = ((ab 0x30 0x3C).setReg 0xF 9).V := by decide
theorem test_A6_xor : (run ((ab 0xFF 0x0F).setReg 0xF 9) 0x8123).V = ((ab 0xF0 0x0F).setReg 0xF 9).V := by decide
theorem test_A7_add :
    (run (ab 0x05 0xFA) 0x8124).V = (ab 0xFF 0xFA).V ∧ (run (ab 0xFF 0x01) 0x8124).V = ((ab 0x00 0x01).setReg 0xF 1).V := by decide
theorem test_A9_A10_add_with_VF :
    (run ((s0.setReg 0xF 0xF0).setReg 1 0x20) 0x8F14).reg 0xF = 1 ∧ (run ((s0.setReg 0xF 1).setReg 1 0x10) 0x81F4).reg 1 = 0x11 := by
  decide
theorem test_A11_sub :
    (run (ab 0x03 0x0A) 0x8125).V = (ab 0xF9 0x0A).V ∧ (run (ab 0x42 0x42) 0x8125).V = ((ab 0 0x42).setReg 0xF 1).V := by decide
theorem test_A12_sub_with_VF :
    (run ((s0.setReg 0xF 0x0A).setReg 1 0x03) 0x8F15).reg 0xF = 7 ∧ (run ((s0.setReg 1 5).setReg 0xF 7) 0x81F5).reg 0xF = 0 := by
  decide
theorem test_A13_shr :
    (run (ab 0x05 0xFF) 0x8126).V = ((ab 0x02 0xFF).setReg 0xF 1).V ∧ (run (ab 0xFE 0) 0x8126).V = (ab 0x7F 0).V := by decide
theorem test_A14_shr_of_VF : (run (s0.setReg 0xF 5) 0x8F06).reg 0xF = 2 := by decide
theorem test_A15_subn :
    (run (ab 0x03 0x0A) 0x8127).V = ((ab 0x07 0x0A).setReg 0xF 1).V ∧ (run (ab 0x0A 0x03) 0x8127).V = (ab 0xF9 0x03).V ∧
    (run (ab 0x42 0x42) 0x8127).reg 0xF = 1 := by decide
theorem test_A16_shl :
    (run (ab 0x81 0xFF) 0x812E).V = ((ab 0x02 0xFF).setReg 0xF 1).V ∧ (run (s0.setReg 0xF 0x81) 0x8F0E).reg 0xF = 2 := by decide
theorem test_A17_nop8 : (run (ab 1 2) 0x812F).V = (ab 1 2).V ∧ (run (ab 1 2) 0x8128).pc = 0x202 := by decide
theorem test_A18_rnd :
    (run { s0 with inputs := [{ quiet with rnd := 0xA7 }] } 0xC30F).reg 3 = 7 ∧
    (run { s0 with inputs := [{ quiet with rnd := 0xF0 }] } 0xC30F).reg 3 = 0 := by decide

/-! ## Index and memory (M1 to M10) -/

theorem test_M1_ld_i : (run s0 0xA300).I = 0x300 ∧ (run { s0 with I := 0xFFFF } 0xAFFF).I = 0xFFF := by decide
theorem test_M2_add_i :
    (run ({ s0 with I := 0xFFF0 }.setReg 2 0xFF) 0xF21E).I = 0x00EF ∧ (run ({ s0 with I := 0xFFF }.setReg 2 1) 0xF21E).I = 0x1000 ∧
    (run ({ s0 with I := 0xFFF }.setReg 2 1) 0xF21E).reg 0xF = 0 := by decide
theorem test_M3_ld_f : (run (s0.setReg 1 0xF) 0xF129).I = 0x4B ∧ (run (s0.setReg 1 0xFF) 0xF129).I = 0x4FB := by decide
theorem test_S9_M4_bcd :
    (run ({ s0 with I := 0x300 }.setReg 1 205) 0xF133).mem.readBytes 0x300 4 = [2, 0, 5, 0] := by decide
theorem test_M5_bcd_bounds :
    faultOf (run { s0 with pc := 0x202, I := 0xFFE } 0xF033) = (5, 0x202, 0xF033, 0x1000) ∧
    (run { s0 with pc := 0x202, I := 0xFFE } 0xF033).pc = 0x204 ∧
    (run ({ s0 with I := 0xFFD }.setReg 0 123) 0xF033).mem.readBytes 0xFFD 3 = [1, 2, 3] := by decide
theorem test_M6_store :
    (run ({ s0 with I := 0x300 }.setReg 1 0x0F) 0xF155).mem.readBytes 0x300 3 = [0, 0x0F, 0] ∧
    (run ({ s0 with I := 0x300 }.setReg 1 0x0F) 0xF155).I = 0x300 := by decide
theorem test_M7_store_bounds :
    faultOf (run { s0 with I := 0xFFFF } 0xFF55) = (5, 0x200, 0xFF55, 0x1000E) ∧
    (run ({ s0 with I := 0xFF0 }.setReg 0xF 16) 0xFF55).mem.read 0xFFF = 16 := by decide
theorem test_M9_load :
    (run s0 0xFF65).V.toList = [0xF0, 0x90, 0x90, 0x90, 0xF0, 0x20, 0x60, 0x20, 0x20, 0x70, 0xF0, 0x10, 0xF0, 0x80, 0xF0, 0xF0] := by
  decide
theorem test_M8_load_leaves_the_rest :
    (run ({ s0 with I := 0x000 }.setReg 2 0xCC) 0xF165).V.toList.take 3 = [0xF0, 0x90, 0xCC] := by decide
theorem test_M10_store_into_font : (run (s0.setReg 0 0) 0xF055).mem.read 0 = 0 := by decide

/-! ## Display (G1 to G10) -/

theorem test_G1_cls : (run { s0 with fb := s0.fb.setPixel 31 63 true } 0x00E0).fb.pixel 31 63 = false := by decide
theorem test_G10_draw_glyph_0 :
    (List.map (lit (run s0 0xD005).fb) [0, 1, 4, 5]) = [[0, 1, 2, 3], [0, 3], [0, 1, 2, 3], []] ∧ (run s0 0xD005).reg 0xF = 0 := by
  decide
theorem test_G3_collision :
    lit (run { s0 with I := 0x300, mem := [(0x300, 0xC0)], fb := s0.fb.setPixel 0 0 true } 0xD011).fb 0 = [1] ∧
    (run { s0 with I := 0x300, mem := [(0x300, 0xC0)], fb := s0.fb.setPixel 0 0 true } 0xD011).reg 0xF = 1 := by decide

/-! ## Keys and timers (Y1, Y2, 45_keys_timers.md R143, S8) -/

theorem test_Y1_skp :
    (run ({ s0 with pc := 0x202, inputs := [{ quiet with key := keys [7] }] }.setReg 1 7) 0xE19E).pc = 0x206 ∧
    (run ({ s0 with pc := 0x202, inputs := [{ quiet with key := keys [6] }] }.setReg 1 7) 0xE19E).pc = 0x204 := by decide
theorem test_Y2_sknp :
    (run ({ s0 with pc := 0x202, inputs := [{ quiet with key := keys [7] }] }.setReg 1 7) 0xE1A1).pc = 0x204 ∧
    (run ({ s0 with pc := 0x202, inputs := [{ quiet with key := keys [6] }] }.setReg 1 7) 0xE1A1).pc = 0x206 := by decide
theorem test_key_index_fault : faultOf (run (s0.setReg 1 16) 0xE19E) = (6, 0x200, 0xE19E, 16) := by decide
theorem test_R143_lowest_key :
    (run { s0 with inputs := [{ quiet with key := keys [10, 7] }] } 0xF10A).reg 1 = 7 ∧
    (run { s0 with inputs := [{ quiet with key := keys [10, 7] }] } 0xF10A).pc = 0x202 := by decide
theorem test_R143_wait : (run (s0.setReg 1 9) 0xF10A).pc = 0x200 ∧ (run (s0.setReg 1 9) 0xF10A).reg 1 = 9 := by decide
theorem test_S8_arm : (run ({ s0 with now := 600 }.setReg 2 60) 0xF215).DT = { stored := 60, armed := true, armedAt := 600 } := by
  decide
theorem test_S8_read :
    (run { s0 with now := 600, DT := { stored := 60, armed := true, armedAt := 600 }, inputs := [{ quiet with elapsed := 30 }] }
      0xF307).reg 3 = 30 ∧
    (run { s0 with now := 600, DT := { stored := 60, armed := true, armedAt := 600 }, inputs := [{ quiet with elapsed := 60 }] }
      0xF307).reg 3 = 0 := by decide
theorem test_R146_sound :
    (run ({ s0 with now := 100 }.setReg 3 5) 0xF318).ST = { stored := 5, armed := true, armedAt := 100 } ∧
    (run ({ s0 with now := 100 }.setReg 3 5) 0xF318).readSoundTimer 104 = 1 ∧
    (run ({ s0 with now := 100 }.setReg 3 5) 0xF318).readSoundTimer 105 = 0 := by decide
theorem test_ticks_at_1000_units_per_second : ticks 1000 16 = 0 ∧ ticks 1000 17 = 1 ∧ ticks 1000 1000 = 60 := by decide
theorem test_nopE_nopF : (run s0 0xE000).pc = 0x202 ∧ (run s0 0xF175).pc = 0x202 ∧ (run s0 0xF175).halted = false := by decide

/-! ## Witnesses: states and operands that meet the hypotheses of the statements -/

/-- The reset state runs the word `w` next. -/
def placed (w : Word) : State := s0.placeWord w

/-- Every execution answers a next state. -/
theorem exec_answers (i : Instr) (s : State) : exec i s = .next (st (exec i s)) := by cases i <;> rfl

/-- Every step answers a next state. -/
theorem step_answers (s : State) : step s = .next (st (step s)) := by
  obtain ⟨t, h⟩ : ∃ t, step s = .next t := by
    unfold step engineStep
    split
    · exact ⟨_, rfl⟩
    · split
      · exact ⟨_, rfl⟩
      · split
        · exact ⟨_, rfl⟩
        · exact ⟨_, exec_answers _ _⟩
  rw [h]; rfl

theorem resetMemory_wf : State.reset.mem.wf ∧ (resetMemory defaultParams).wf := by decide

theorem witness_NoWordIsIllegal : engineStep s0 = .next (st (engineStep s0)) ∧ s0.fault.cause ≠ 1 := ⟨rfl, by decide⟩

theorem witness_DecodeEncodeRoundTrip :
    (Instr.sys 0xFFF).wf = true ∧ (Instr.nop8 0xF 0xF 0xF).wf = true ∧ (Instr.nopE 0xF 0xFF).wf = true ∧
    (Instr.nopF 0 0).wf = true ∧ (Instr.drw 0xF 0xF 0xF).wf = true := by decide

theorem witness_EncodeDecodeRoundTrip :
    decodeWord 0xFFFF = some (.nopF 0xF 0xFF) ∧ decodeWord 0x0000 = some (.sys 0) ∧ decodeWord 0x9FFF = some (.sneReg 0xF 0xF 0xF) := by
  decide

theorem witness_StepRunsDecodedInstruction :
    let s : State := { s0 with pc := 0xFFE, mem := [(0xFFE, 0x60), (0xFFF, 0x07)] }
    s.halted = false ∧ s.pc.toNat ≤ 0xFFE ∧
    (0x6007#16).toNat = (s.mem.read s.pc.toNat).toNat * 256 + (s.mem.read (s.pc.toNat + 1)).toNat ∧
    decodeWord 0x6007 = some (.ldImm 0 7) := by decide

theorem witness_InputsOfAStep : s0.inputs = [quiet] ∧ State.reset.inputs = [] := by decide

theorem witness_FetchBeyondMemoryHalts :
    let s : State := { s0 with pc := 0xFFF }
    let s' : State := { s0 with pc := 0x10FE }
    s.halted = false ∧ 0xFFE < s.pc.toNat ∧ s'.halted = false ∧ 0xFFE < s'.pc.toNat := by decide

/-- The state in which one step from reset has halted (vector T3). -/
def haltedState : State := run s0 0x00EE

theorem witness_HaltedEngineChangesNothing : haltedState.halted = true := by decide

theorem witness_FaultConditionsOfInstructions :
    s0.halted = false ∧
    specFault (.call 5) { s0 with sp := 15 } = none ∧ specFault (.call 5) { s0 with sp := 16 } = some (2, 16) ∧
    specFault .ret { s0 with sp := 1 } = none ∧ specFault .ret s0 = some (3, 0) ∧
    specFault (.drw 0 0 0) { s0 with I := 0xFFFF } = none ∧ specFault (.drw 0 0 3) { s0 with I := 0xFFD } = none ∧
    specFault (.drw 0 0 3) { s0 with I := 0xFFE } = some (5, 0x1000) ∧
    specFault (.ldB 0) { s0 with I := 0xFFD } = none ∧ specFault (.ldB 0) { s0 with I := 0xFFE } = some (5, 0x1000) ∧
    specFault (.storeRegs 0xF) { s0 with I := 0xFF0 } = none ∧ specFault (.storeRegs 0xF) { s0 with I := 0xFFFF } = some (5, 0x1000E) ∧
    specFault (.loadRegs 0xF) { s0 with I := 0xFF0 } = none ∧ specFault (.loadRegs 0xF) { s0 with I := 0xFF1 } = some (5, 0x1000) ∧
    specFault (.skp 1) (s0.setReg 1 15) = none ∧ specFault (.skp 1) (s0.setReg 1 16) = some (6, 16) ∧
    specFault (.sknp 1) (s0.setReg 1 15) = none ∧ specFault (.sknp 1) (s0.setReg 1 16) = some (6, 16) := by decide

theorem witness_FaultConditions_answers : exec .ret s0 = .next (st (exec .ret s0)) := exec_answers _ _

theorem witness_StepFaultIsPrecise :
    (placed 0x00EE).Running ∧ (placed 0x00EE).fetch = some 0x00EE ∧
    step (placed 0x00EE) = .next (st (step (placed 0x00EE))) ∧ (st (step (placed 0x00EE))).halted = true :=
  ⟨by decide, by decide, step_answers _, by decide⟩

theorem witness_HaltAndTimeAreMonotone :
    step haltedState = .next (st (step haltedState)) ∧ haltedState.halted = true := ⟨step_answers _, by decide⟩

/-- The longest legal program start: one byte of image at 0xFFF. -/
def lastByte : Params := { defaultParams with programStart := 0xFFF, program := [7] }

theorem witness_ResetState :
    lastByte.programStart + lastByte.program.length ≤ 4096 ∧ 0x200 ≤ lastByte.programStart ∧ lastByte.programStart ≤ 0xFFF ∧
    0 < lastByte.timeHz ∧ (0 < 80 ∧ 79 < 80) ∧ (80 ≤ 80 ∧ 80 < lastByte.programStart) ∧ 0 < lastByte.program.length ∧
    (defaultParams.programStart + defaultParams.program.length ≤ 4095 ∧ 4095 < 4096) := by decide

theorem witness_OversizedImageRefused :
    let p : Params := { defaultParams with programStart := 0xFFF, program := [7, 8] }
    4096 < p.programStart + p.program.length := by decide

theorem witness_InvariantAtEveryReset : State.resetWith lastByte = .next (st (State.resetWith lastByte)) := rfl

theorem s0_inv : s0.Inv := by constructor <;> decide

theorem witness_StepKeepsInvariant : s0.Inv ∧ step s0 = .next (st (step s0)) := ⟨s0_inv, step_answers _⟩

theorem witness_JumpsLoadTheAddress :
    ((0x00E1#16) &&& 0xF000 = 0x0000 ∧ (0x00E1#16) ≠ 0x00E0 ∧ (0x00E1#16) ≠ 0x00EE) ∧ (0x1FFF#16) &&& 0xF000 = 0x1000 := by decide

theorem witness_JumpWithOffset : (0xBFFF#16) &&& 0xF000 = 0xB000 := by decide

theorem witness_CallPushesAndJumps :
    (0x2500#16) &&& 0xF000 = 0x2000 ∧ ({ s0 with sp := 0 } : State).sp.val < 16 ∧ ({ s0 with sp := 15 } : State).sp.val < 16 ∧
    ({ s0 with sp := 16 } : State).sp.val = 16 ∧ (0 : Fin 16).val ≠ ({ s0 with sp := 15 } : State).sp.val := by decide

theorem witness_ReturnPopsIntoPc :
    0 < ({ s0 with sp := 1 } : State).sp.val ∧ 0 < ({ s0 with sp := 16 } : State).sp.val ∧ s0.sp.val = 0 := by decide

theorem witness_ReturnUndoesCall :
    let s : State := { s0 with sp := 15 }
    let t := st (exec (.call 0x300) s)
    s.sp.val < 16 ∧ exec (.call 0x300) s = .next t ∧ t.sp = t.sp ∧ t.stack = t.stack := ⟨by decide, rfl, rfl, rfl⟩

theorem witness_SkipsOnImmediate : (0x3FFF#16) &&& 0xF000 = 0x3000 ∧ (0x4000#16) &&& 0xF000 = 0x4000 := by decide

theorem witness_SkipsOnRegisters : (0x5127#16) &&& 0xF000 = 0x5000 ∧ (0x9FFF#16) &&& 0xF000 = 0x9000 := by decide

theorem witness_LoadsAndAddImmediate :
    (0x6FAB#16) &&& 0xF000 = 0x6000 ∧ (0x7F01#16) &&& 0xF000 = 0x7000 ∧ (0x8FF0#16) &&& 0xF00F = 0x8000 := by decide

theorem witness_BitwiseLogic :
    (0x8FF1#16) &&& 0xF00F = 0x8001 ∧ (0x8122#16) &&& 0xF00F = 0x8002 ∧ (0x8113#16) &&& 0xF00F = 0x8003 ∧ 7 < 8 := by decide

theorem witness_AddWithCarry :
    (0x8F14#16) &&& 0xF00F = 0x8004 ∧ (0xE : RegIx) ≠ 0xF ∧
    256 ≤ ((ab 0xFF 0x01).reg 1).toNat + ((ab 0xFF 0x01).reg 2).toNat ∧
    ¬ 256 ≤ ((ab 0x05 0xFA).reg 1).toNat + ((ab 0x05 0xFA).reg 2).toNat := by decide

theorem witness_SubtractWithNoBorrow :
    (0x8F15#16) &&& 0xF00F = 0x8005 ∧ (0x8F17#16) &&& 0xF00F = 0x8007 ∧ (0xE : RegIx) ≠ 0xF ∧
    ((ab 0x42 0x42).reg 2).toNat ≤ ((ab 0x42 0x42).reg 1).toNat ∧ ¬ ((ab 0 1).reg 2).toNat ≤ ((ab 0 1).reg 1).toNat := by decide

theorem witness_ShiftsByOne : (0x8F06#16) &&& 0xF00F = 0x8006 ∧ (0x812E#16) &&& 0xF00F = 0x800E ∧ (0xE : RegIx) ≠ 0xF := by decide

theorem witness_NoOpEncodings :
    ((0x812F#16) &&& 0xF000 = 0x8000 ∧ (0x812F#16).extractLsb' 0 4 ∈ [0x8#4, 0x9, 0xA, 0xB, 0xC, 0xD, 0xF]) ∧
    ((0xE19F#16) &&& 0xF000 = 0xE000 ∧ (0xE19F#16).extractLsb' 0 8 ∉ [0x9E#8, 0xA1]) ∧
    ((0xF1FF#16) &&& 0xF000 = 0xF000 ∧
      (0xF1FF#16).extractLsb' 0 8 ∉ [0x07#8, 0x0A, 0x15, 0x18, 0x1E, 0x29, 0x33, 0x55, 0x65]) := by decide

theorem witness_RandomUnderMask :
    (0xCFFF#16) &&& 0xF000 = 0xC000 ∧ 7 < 8 ∧ (placed 0xC30F).Running ∧ (placed 0xC30F).fetch = some (encode (.rnd 3 0x0F)) := by
  decide

theorem witness_LoadIndex : (0xAFFF#16) &&& 0xF000 = 0xA000 := by decide

theorem witness_IndexArithmetic : (0xFF1E#16) &&& 0xF0FF = 0xF01E ∧ (0xFF29#16) &&& 0xF0FF = 0xF029 := by decide

theorem witness_StoreDecimalDigits :
    (0xFF33#16) &&& 0xF0FF = 0xF033 ∧ s0.mem.wf ∧ ({ s0 with I := 0xFFD } : State).I.toNat + 2 ≤ 0xFFF ∧
    0xFFF < ({ s0 with I := 0xFFE } : State).I.toNat + 2 := by decide

theorem witness_StoreRegisterBlock :
    (0xFF55#16) &&& 0xF0FF = 0xF055 ∧ s0.mem.wf ∧ ({ s0 with I := 0xFF0 } : State).I.toNat + (0xF : RegIx).toNat ≤ 0xFFF ∧
    (0xF : RegIx).toNat ≤ (0xF : RegIx).toNat ∧ 0xFFF < ({ s0 with I := 0xFF1 } : State).I.toNat + (0xF : RegIx).toNat := by decide

theorem witness_LoadRegisterBlock :
    (0xF065#16) &&& 0xF0FF = 0xF065 ∧ ({ s0 with I := 0xFFF } : State).I.toNat + (0 : RegIx).toNat ≤ 0xFFF ∧
    (0 : RegIx).toNat ≤ (0 : RegIx).toNat ∧ 0xFFF < ({ s0 with I := 0x1000 } : State).I.toNat + (0 : RegIx).toNat := by decide

theorem witness_StoredWordIsFetched :
    let s : State := { s0 with I := 0x200 }
    let t := st (exec (.storeRegs 1) s)
    s.mem.wf ∧ s.I.toNat + (1 : RegIx).toNat ≤ 0xFFF ∧ (1 : RegIx).toNat = (0 : RegIx).toNat + 1 ∧
    (1 : RegIx).toNat ≤ (1 : RegIx).toNat ∧ exec (.storeRegs 1) s = .next t ∧ t.pc.toNat = s.I.toNat + (0 : RegIx).toNat :=
  ⟨by decide, by decide, by decide, by decide, exec_answers _ _, by decide⟩

theorem witness_DrawTogglesSprite :
    (0xDF11#16) &&& 0xF000 = 0xD000 ∧ (0 : Nibble) = 0 ∧ ({ s0 with I := 0xFFD } : State).I.toNat + (3 : Nibble).toNat - 1 ≤ 0xFFF ∧
    (3 : Nibble) ≠ 0 ∧ 0xFFF < ({ s0 with I := 0xFFE } : State).I.toNat + (3 : Nibble).toNat - 1 ∧ (0xE : RegIx) ≠ 0xF := by decide

/-- Bit 7 of glyph 0's first row falls on row 0, column 0, in the reset state and with that pixel on. -/
theorem witness_DrawTogglesSprite_collision :
    let s : State := { s0 with fb := s0.fb.setPixel 0 0 true }
    (∃ r c, SpriteCovers s 0 1 5 r c ∧ s.fb.pixel r c = true) ∧ ¬ ∃ r c, SpriteCovers s0 0 1 5 r c ∧ s0.fb.pixel r c = true := by
  refine ⟨⟨0, 0, ⟨0, by decide, 0, by decide, by decide, by decide, by decide⟩, by decide⟩, ?_⟩
  rintro ⟨r, c, -, h⟩
  simp [s0, State.reset, Framebuffer.pixel] at h

theorem witness_DrawTwiceRestoresDisplay :
    let t := st (exec (.drw 0 1 5) s0)
    (0 : RegIx) ≠ 0xF ∧ (1 : RegIx) ≠ 0xF ∧ s0.halted = false ∧ exec (.drw 0 1 5) s0 = .next t ∧ t.halted = false ∧
    exec (.drw 0 1 5) t = .next (st (exec (.drw 0 1 5) t)) :=
  ⟨by decide, by decide, rfl, exec_answers _ _, by decide, exec_answers _ _⟩

theorem witness_SkipsOnKeys :
    (0xEF9E#16) &&& 0xF0FF = 0xE09E ∧ (0xEFA1#16) &&& 0xF0FF = 0xE0A1 ∧ ((s0.setReg 1 15).reg 1).toNat = (15 : Fin 16).val ∧
    ((s0.setReg 1 0).reg 1).toNat = (0 : Fin 16).val ∧ 15 < ((s0.setReg 1 16).reg 1).toNat := by decide

theorem witness_WaitForKey :
    (0xFF0A#16) &&& 0xF0FF = 0xF00A ∧ (keys [7, 10])[(7 : Fin 16)] = true ∧
    (∀ j : Fin 16, j < 7 → (keys [7, 10])[j] = false) ∧ ∀ k : Fin 16, s0.key[k] = false := by decide

theorem witness_WaitStepChangesNothing :
    (placed 0xF10A).Running ∧ (placed 0xF10A).fetch = some (encode (.ldVxK 1)) ∧
    ∀ k : Fin 16, (placed 0xF10A).takeInput.key[k] = false := by decide

theorem witness_ReadDelayTimer : (0xFF07#16) &&& 0xF0FF = 0xF007 := by decide

theorem witness_ArmTimers : (0xFF15#16) &&& 0xF0FF = 0xF015 ∧ (0xFF18#16) &&& 0xF0FF = 0xF018 := by decide

theorem witness_TimersDecayToZero :
    let T : Timer := { stored := 60, armed := true, armedAt := 600 }
    0 < 60 ∧ 600 ≤ 660 ∧ T.stored.toNat * 60 ≤ (660 - T.armedAt) * 60 := by decide

theorem witness_RegistersOutsideDestinationsKeep :
    exec (.addReg 1 2) s0 = .next (st (exec (.addReg 1 2) s0)) ∧ ¬ writesReg (.addReg 1 2) 2 ∧ ¬ writesReg (.loadRegs 0xE) 0xF ∧
    ¬ writesReg (.orReg 1 2) 0xF := by
  refine ⟨rfl, ?_, ?_, ?_⟩ <;> simp [writesReg]

theorem witness_OtherInstructionsFallThrough :
    exec (.drw 0 1 5) s0 = .next (st (exec (.drw 0 1 5) s0)) ∧ transfers (.drw 0 1 5) = false := ⟨exec_answers _ _, rfl⟩

theorem witness_OnlyTwoInstructionsStore :
    exec (.loadRegs 1) s0 = .next (st (exec (.loadRegs 1) s0)) ∧ (∀ x, Instr.loadRegs 1 ≠ .ldB x) ∧
    ∀ x, Instr.loadRegs 1 ≠ .storeRegs x := ⟨exec_answers _ _, nofun, nofun⟩

theorem witness_OnlyTwoInstructionsChangePixels :
    exec (.ldI 5) s0 = .next (st (exec (.ldI 5) s0)) ∧ Instr.ldI 5 ≠ .cls ∧ ∀ x y n, Instr.ldI 5 ≠ .drw x y n := ⟨rfl, nofun, nofun⟩

theorem witness_OnlyCallAndReturnMoveTheStack :
    exec (.jp 5) s0 = .next (st (exec (.jp 5) s0)) ∧ (∀ nnn, Instr.jp 5 ≠ .call nnn) ∧ Instr.jp 5 ≠ .ret := ⟨rfl, nofun, nofun⟩

theorem witness_IndexAndTimersHaveTheirWriters :
    exec (.storeRegs 1) s0 = .next (st (exec (.storeRegs 1) s0)) ∧
    ((∀ nnn, Instr.storeRegs 1 ≠ .ldI nnn) ∧ (∀ x, Instr.storeRegs 1 ≠ .addI x) ∧ ∀ x, Instr.storeRegs 1 ≠ .ldF x) ∧
    (∀ x, Instr.storeRegs 1 ≠ .ldDTVx x) ∧ ∀ x, Instr.storeRegs 1 ≠ .ldSTVx x :=
  ⟨exec_answers _ _, ⟨nofun, nofun, nofun⟩, nofun, nofun⟩

theorem witness_NoInstructionWritesInputs : exec (.ldVxK 1) s0 = .next (st (exec (.ldVxK 1) s0)) := exec_answers _ _

theorem witness_TimeAndRandomReachOnlyTheirReaders :
    exec (.ldVxK 1) s0 = .next (st (exec (.ldVxK 1) s0)) ∧ (∀ x, Instr.ldVxK 1 ≠ .ldVxDT x) ∧ (∀ x, Instr.ldVxK 1 ≠ .ldDTVx x) ∧
    (∀ x, Instr.ldVxK 1 ≠ .ldSTVx x) ∧ ∀ x kk, Instr.ldVxK 1 ≠ .rnd x kk := ⟨exec_answers _ _, nofun, nofun, nofun, nofun⟩

theorem witness_KeysReachOnlyTheirReaders :
    exec (.ldVxDT 1) s0 = .next (st (exec (.ldVxDT 1) s0)) ∧ (∀ x, Instr.ldVxDT 1 ≠ .skp x) ∧ (∀ x, Instr.ldVxDT 1 ≠ .sknp x) ∧
    ∀ x, Instr.ldVxDT 1 ≠ .ldVxK x := ⟨exec_answers _ _, nofun, nofun, nofun⟩

end Sys2Proof.Tests.Slice0
end

section
/-!
What an instruction can do, said once: `Effect` lists the changes of state by the pieces of 10_state.md R10 they touch, and
`exec_effect` says that every instruction answers with one of them. The frames of the single pieces and the invariant follow by
cases on the effect.
-/

namespace Sys2Proof.Machine

/-- The state `t` that instruction `i` may answer in state `s`, by the pieces of the state that differ. -/
inductive Effect (i : Instr) (s : State) : State → Prop where
  /-- Nothing changes: a no-op, a skip not taken. -/
  | keep : Effect i s s
  /-- A fault of 60_exceptions.md R161 other than the decode fault, which only the engine could raise (R162). -/
  | fault (c : FaultCause) (hc : c ≠ .decodeFault) (w : Word) (info : Nat) : Effect i s (s.raise c w info)
  /-- General registers change, none but the destinations of `i`. -/
  | regs (V : Regs) (h : ∀ r, ¬ writesReg i r → State.reg { s with V := V } r = s.reg r) : Effect i s { s with V := V }
  /-- A transfer to a target no instruction exceeds (10_state.md R16). -/
  | jump (hi : transfers i = true) (target : Word) (h : target.toNat ≤ 0x10FE) : Effect i s (s.setPc target)
  /-- A skip taken (41_skips.md R94). -/
  | skip (hi : transfers i = true) : Effect i s s.advance
  /-- The wait for a key (45_keys_timers.md R143). -/
  | wait (hi : transfers i = true) : Effect i s s.stepBack
  | call (nnn : Addr) (hi : i = .call nnn) (h : s.sp.val < 16) : Effect i s ((s.push s.pc h).setPc (addrOperand nnn))
  | ret (hi : i = .ret) (h : 0 < s.sp.val) : Effect i s (s.popPc h)
  | cls (hi : i = .cls) : Effect i s (s.setFb Framebuffer.blank)
  | draw (x y : RegIx) (n : Nibble) (hi : i = .drw x y n) (f : Framebuffer) (hit : Byte) :
      Effect i s ((s.setFb f).setReg regVF hit)
  | index (hi : (∃ nnn, i = .ldI nnn) ∨ (∃ x, i = .addI x) ∨ ∃ x, i = .ldF x) (v : Word) : Effect i s (s.setI v)
  /-- A store of a range that has passed the check of 20_memory.md R42. -/
  | store (hi : (∃ x, i = .ldB x) ∨ ∃ x, i = .storeRegs x) (a : Nat) (bs : List Byte)
      (h : a + bs.length ≤ Config.memorySize) : Effect i s (s.store a bs)
  | armDelay (x : RegIx) (hi : i = .ldDTVx x) : Effect i s { s with DT := Timer.arm (s.reg x) s.now }
  | armSound (x : RegIx) (hi : i = .ldSTVx x) : Effect i s { s with ST := Timer.arm (s.reg x) s.now }

/-! ### The shared operations as effects -/

variable {i : Instr} {s : State}

theorem Effect.setReg {x : RegIx} (v : Byte) (hx : writesReg i x := by simp [writesReg]) : Effect i s (s.setReg x v) :=
  .regs _ fun _ hr => s.reg_setReg_ne v fun h => hr (h ▸ hx)

theorem Effect.setResultThenFlag {x : RegIx} (result flag : Byte) (hx : writesReg i x := by simp [writesReg])
    (hF : writesReg i regVF := by simp [writesReg]) : Effect i s (s.setResultThenFlag x result flag) :=
  .regs _ fun r hr => by
    have hrx : r ≠ x := fun h => hr (h ▸ hx)
    have hrF : r ≠ regVF := fun h => hr (h ▸ hF)
    exact (s.reg_setResultThenFlag x result flag r).trans (by rw [if_neg hrF, if_neg hrx])

theorem Effect.setFlagThenResult {x : RegIx} (flag result : Byte) (hx : writesReg i x := by simp [writesReg])
    (hF : writesReg i regVF := by simp [writesReg]) : Effect i s (s.setFlagThenResult x flag result) :=
  .regs _ fun r hr => by
    have hrx : r ≠ x := fun h => hr (h ▸ hx)
    have hrF : r ≠ regVF := fun h => hr (h ▸ hF)
    exact (s.reg_setFlagThenResult x flag result r).trans (by rw [if_neg hrx, if_neg hrF])

theorem Effect.loadBlock {n : Nat} (h : ∀ r : RegIx, r.toNat < n → writesReg i r) (a : Nat) :
    Effect i s (s.loadBlock a n) :=
  .regs _ fun r hr => (s.reg_loadBlock a n r).trans <| if_neg fun hn => hr (h r hn)

theorem Effect.skipIf (hi : transfers i = true) (c : Bool) : Effect i s (s.skipIf c) := by
  cases c with
  | false => exact .keep
  | true => exact .skip hi

/-- An action under `CheckRange` has an effect of its own or is the bounds fault. -/
theorem Effect.withRange {count : Nat} {w : Word} {act : State}
    (h : count = 0 ∨ s.I.toNat + count ≤ Config.memorySize → Effect i s act) : Effect i s (s.withRange count w act) := by
  obtain ⟨hr, e⟩ | ⟨-, e⟩ := s.withRange_cases count w act <;> rw [e]
  · exact h hr
  · exact .fault .boundsFault nofun _ _

/-- An action on a key code has an effect of its own or is the key index fault. -/
theorem Effect.withKey {a : Byte} {w : Word} {act : Fin 16 → State} (h : ∀ k, Effect i s (act k)) :
    Effect i s (s.withKey a w act) := by
  obtain ⟨_, e⟩ | ⟨-, e⟩ := s.withKey_cases a w act <;> rw [e]
  · exact h _
  · exact .fault .keyIndexFault nofun _ _

theorem addrOperand_toNat_le (nnn : Addr) : (addrOperand nnn).toNat ≤ 0xFFF := by
  have := nnn.isLt
  simp only [addrOperand, BitVec.toNat_setWidth]
  omega

/-- 10_state.md R16: `0xFF + 0xFFF` is the highest target of `Bnnn`. -/
theorem offsetTarget_toNat_le (v : Byte) (nnn : Addr) : (offsetTarget v nnn).toNat ≤ 0x10FE := by
  have := v.isLt
  have := nnn.isLt
  simp only [offsetTarget, BitVec.toNat_add, BitVec.toNat_setWidth]
  omega

/-! ### Every instruction -/

theorem execRet_effect : ∃ t, exec .ret s = .next t ∧ Effect .ret s t := by
  refine ⟨_, rfl, ?_⟩
  split
  · exact .ret rfl _
  · exact .fault .stackUnderflow nofun _ _

theorem execCall_effect (nnn : Addr) : ∃ t, exec (.call nnn) s = .next t ∧ Effect (.call nnn) s t := by
  refine ⟨_, rfl, ?_⟩
  split
  · exact .call nnn rfl _
  · exact .fault .stackOverflow nofun _ _

theorem execLdVxK_effect (x : RegIx) : ∃ t, exec (.ldVxK x) s = .next t ∧ Effect (.ldVxK x) s t := by
  refine ⟨_, rfl, ?_⟩
  split
  · exact .setReg _
  · exact .wait rfl

/-- Every instruction answers a next state, by one of the effects. -/
theorem exec_effect (i : Instr) (s : State) : ∃ t, exec i s = .next t ∧ Effect i s t :=
  match i with
  | .cls => ⟨_, rfl, .cls rfl⟩
  | .ret => execRet_effect
  | .call nnn => execCall_effect nnn
  | .sys nnn | .jp nnn => ⟨_, rfl, .jump rfl _ ((addrOperand_toNat_le nnn).trans (by decide))⟩
  | .jpV0 nnn => ⟨_, rfl, .jump rfl _ (offsetTarget_toNat_le _ nnn)⟩
  | .seImm _ _ | .sneImm _ _ | .seReg _ _ _ | .sneReg _ _ _ => ⟨_, rfl, .skipIf rfl _⟩
  | .skp _ | .sknp _ => ⟨_, rfl, .withKey fun _ => .skipIf rfl _⟩
  | .ldImm _ _ | .addImm _ _ | .ldReg _ _ | .orReg _ _ | .andReg _ _ | .xorReg _ _ | .rnd _ _ | .ldVxDT _ =>
    ⟨_, rfl, .setReg _⟩
  | .addReg _ _ => ⟨_, rfl, .setResultThenFlag _ _⟩
  | .subReg _ _ | .shr _ _ | .subnReg _ _ | .shl _ _ => ⟨_, rfl, .setFlagThenResult _ _⟩
  | .ldVxK x => execLdVxK_effect x
  | .nop8 _ _ _ | .nopE _ _ | .nopF _ _ => ⟨_, rfl, .keep⟩
  | .drw x y n => ⟨_, rfl, .withRange fun _ => .draw x y n rfl _ _⟩
  | .ldI nnn => ⟨_, rfl, .index (.inl ⟨nnn, rfl⟩) _⟩
  | .addI x => ⟨_, rfl, .index (.inr (.inl ⟨x, rfl⟩)) _⟩
  | .ldF x => ⟨_, rfl, .index (.inr (.inr ⟨x, rfl⟩)) _⟩
  | .ldB x => ⟨_, rfl, .withRange fun h => .store (.inl ⟨x, rfl⟩) _ _ (h.resolve_left (by decide))⟩
  | .storeRegs x => ⟨_, rfl, .withRange fun h => .store (.inr ⟨x, rfl⟩) _ _ <| by
      rw [s.length_firstRegs x.isLt]
      exact h.resolve_left x.toNat.succ_ne_zero⟩
  | .loadRegs _ => ⟨_, rfl, .withRange fun _ => .loadBlock (fun _ => Nat.le_of_lt_succ) _⟩
  | .ldDTVx x => ⟨_, rfl, .armDelay x rfl⟩
  | .ldSTVx x => ⟨_, rfl, .armSound x rfl⟩

theorem effect_of_exec {t : State} (h : exec i s = .next t) : Effect i s t := by
  obtain ⟨u, hu, he⟩ := exec_effect i s
  obtain rfl : u = t := Host.Outcome.next.inj (hu.symm.trans h)
  exact he

end Sys2Proof.Machine
end

section
/-!
The frames of 10_state.md: which instruction writes which piece of the state, by cases on the effect of the instruction.
-/

namespace Sys2Proof.Machine

/-- Settles O48: only the effects on registers touch them, and those within the destinations of the instruction. -/
theorem registersOutsideDestinationsKeep : Obligations.RegistersOutsideDestinationsKeep := by
  intro i s t r h hr
  cases effect_of_exec h with
  | regs V hV => exact hV r hr
  | draw x y n hi f hit => subst hi; exact (s.setFb f).reg_setReg_ne hit hr
  | _ => rfl

/-- Settles O49: the effects on `pc` belong to the transfers, the skips and the wait. -/
theorem otherInstructionsFallThrough : Obligations.OtherInstructionsFallThrough := by
  intro i s t h hi
  cases effect_of_exec h with
  | jump ht | skip ht | wait ht => exact absurd ht (by simp [hi])
  | call _ ht | ret ht => subst ht; cases hi
  | _ => rfl

/-- Settles O50: the only effect on memory is the store of `Fx33` and `Fx55`. -/
theorem onlyTwoInstructionsStore : Obligations.OnlyTwoInstructionsStore := by
  intro i s t h hB hS
  cases effect_of_exec h with
  | store hi =>
    obtain ⟨x, hi⟩ | ⟨x, hi⟩ := hi
    · exact absurd hi (hB x)
    · exact absurd hi (hS x)
  | _ => rfl

/-- Settles O51: the effects on the framebuffer are those of `00E0` and `Dxyn`. -/
theorem onlyTwoInstructionsChangePixels : Obligations.OnlyTwoInstructionsChangePixels := by
  intro i s t h hC hD
  cases effect_of_exec h with
  | cls hi => exact absurd hi hC
  | draw x y n hi => exact absurd hi (hD x y n)
  | _ => rfl

/-- Settles O52: the effects on stack and `sp` are the push of `2nnn` and the pop of `00EE`, which leaves the entries. -/
theorem onlyCallAndReturnMoveTheStack : Obligations.OnlyCallAndReturnMoveTheStack := by
  intro i s t h
  cases effect_of_exec h with
  | call nnn hi => exact ⟨fun hC => absurd hi (hC nnn), fun hC _ => absurd hi (hC nnn)⟩
  | ret hi => exact ⟨fun _ => rfl, fun _ hR => absurd hi hR⟩
  | _ => exact ⟨fun _ => rfl, fun _ _ => rfl⟩

/-- Settles O53: `I` and each timer have one effect each. -/
theorem indexAndTimersHaveTheirWriters : Obligations.IndexAndTimersHaveTheirWriters := by
  intro i s t h
  cases effect_of_exec h with
  | index hi =>
    refine ⟨fun hL hA hF => ?_, fun _ => rfl, fun _ => rfl⟩
    obtain ⟨nnn, hi⟩ | ⟨x, hi⟩ | ⟨x, hi⟩ := hi
    · exact absurd hi (hL nnn)
    · exact absurd hi (hA x)
    · exact absurd hi (hF x)
  | armDelay x hi => exact ⟨fun _ _ _ => rfl, fun hD => absurd hi (hD x), fun _ => rfl⟩
  | armSound x hi => exact ⟨fun _ _ _ => rfl, fun _ => rfl, fun hS => absurd hi (hS x)⟩
  | _ => exact ⟨fun _ _ _ => rfl, fun _ => rfl, fun _ => rfl⟩

/-- Settles O54: no effect touches the latch, the inputs or the parameter. -/
theorem noInstructionWritesInputs : Obligations.NoInstructionWritesInputs := by
  intro i s t h
  cases effect_of_exec h <;> exact ⟨rfl, rfl, rfl, rfl, rfl, rfl⟩

end Sys2Proof.Machine
end

section
/-!
The invariant (10_state.md R36): the inputs of a step keep it, taking a fault keeps it, and so does every effect of an
instruction that was fetched from memory.
-/

namespace Sys2Proof.Machine

/-! ### The step keeps it -/

/-- The cause codes of 60_exceptions.md R161 that a step can record. -/
theorem FaultCause.code_bounds {c : FaultCause} (h : c ≠ .decodeFault) : 2 ≤ c.code.toNat ∧ c.code.toNat ≤ 6 := by
  cases c with
  | decodeFault => exact absurd rfl h
  | _ => decide

/-- 30_encoding.md R67: every top nibble has a family. -/
theorem decodeWord_ne_none (w : Word) : decodeWord w ≠ none := by
  obtain ⟨op, hop⟩ : ∃ op : Fin 16, fieldOp w = BitVec.ofFin op := ⟨_, rfl⟩
  rw [decodeWord, hop]
  fin_cases op <;> exact Option.some_ne_none _

variable {s t : State}

theorem State.Inv.takeInput (hs : s.Inv) : s.takeInput.Inv :=
  { hs with
    delayArmedInPast := fun h => (hs.delayArmedInPast h).trans (Nat.le_add_right _ _)
    soundArmedInPast := fun h => (hs.soundArmedInPast h).trans (Nat.le_add_right _ _) }

theorem State.Inv.takeFault (hs : s.Inv) {c : FaultCause} (hc : c ≠ .decodeFault) (addr word : Word) (info : Nat) :
    (s.takeFault c addr word info).Inv :=
  { hs with
    noFaultBeforeHalt := nofun
    causeOfHalt := fun _ => FaultCause.code_bounds hc }

/-- The advance past an instruction inside memory (10_state.md R16). -/
theorem State.advance_pc_toNat (h : s.pc.toNat ≤ 0xFFE) : s.advance.pc.toNat = s.pc.toNat + 2 := by
  rw [State.advance_pc, BitVec.toNat_add]
  simp only [BitVec.reduceToNat]
  omega

/-- With `pc` just past an instruction of memory, every effect keeps the invariant. -/
theorem Effect.inv {i : Instr} (he : Effect i s t) (hs : s.Inv) (hlo : 2 ≤ s.pc.toNat) (hhi : s.pc.toNat ≤ 0x1000) :
    t.Inv := by
  cases he with
  | keep => exact hs
  | fault c hc w info => exact hs.takeFault hc _ _ _
  | regs | cls | draw | index => exact { hs with }
  | jump _ target h => exact { hs with pcBound := h }
  | skip => exact { hs with pcBound := by rw [State.advance_pc]; bv_omega }
  | wait => exact { hs with pcBound := by rw [State.stepBack_pc]; bv_omega }
  | call nnn _ h =>
    refine { hs with pcBound := (addrOperand_toNat_le nnn).trans (by decide), stackBound := fun k => ?_ }
    simp only [State.setPc_stack, State.push_stack, Fin.getElem_fin, Vector.getElem_set]
    split
    · exact hhi
    · exact hs.stackBound k
  | ret _ h =>
    have hsp : s.sp.val - 1 < 16 := by have := s.sp.isLt; omega
    exact { hs with pcBound := (hs.stackBound ⟨s.sp.val - 1, hsp⟩).trans (by decide) }
  | store _ a bs h => exact { hs with memCanonical := Memory.writeBytes_wf hs.memCanonical h }
  | armDelay => exact { hs with delayArmedInPast := fun _ => le_rfl }
  | armSound => exact { hs with soundArmedInPast := fun _ => le_rfl }

/-- The engine keeps the invariant. -/
theorem State.Inv.engineStep (hs : s.Inv) (h : engineStep s = .next t) : t.Inv := by
  obtain ⟨-, e⟩ | ⟨-, -, e⟩ | ⟨w, -, -, -, hd, -⟩ | ⟨w, i, -, hpc, -, -, e⟩ := engineStep_cases s
  · exact Host.Outcome.next.inj (e.symm.trans h) ▸ hs
  · exact Host.Outcome.next.inj (e.symm.trans h) ▸ hs.takeFault (by decide) _ _ _
  · exact absurd hd (decodeWord_ne_none w)
  · have hadv := State.advance_pc_toNat hpc
    have hs' : s.advance.Inv := { hs with pcBound := by omega }
    exact (effect_of_exec (e.symm.trans h)).inv hs' (by omega) (by omega)

/-- Settles O18: the inputs of the step keep the invariant, and so does the engine. -/
theorem stepKeepsInvariant : Obligations.StepKeepsInvariant :=
  fun _ _ hs h => hs.takeInput.engineStep h

/-! ### Reset establishes it -/

/-- A reset gives a state exactly when the image fits and the parameters are legal (70_reset_and_hazards.md R196). -/
theorem State.resetWith_eq_next {p : Params} :
    State.resetWith p = .next s ↔ p.programStart + p.program.length ≤ Config.memorySize ∧ legalParams p ∧
      s = { State.reset with pc := BitVec.ofNat 16 p.programStart, mem := resetMemory p, timeHz := p.timeHz } := by
  simp only [State.resetWith]
  split_ifs with hlen hp
  · simp [Nat.not_le.2 hlen]
  · exact ⟨fun h => ⟨Nat.not_lt.1 hlen, hp, (Host.Outcome.next.inj h).symm⟩, fun ⟨_, _, h⟩ => h ▸ rfl⟩
  · simp [hp]

/-- Settles O17: memory is canonical by `resetMemory_wf`, every other piece is a constant or a parameter in its range. -/
theorem invariantAtEveryReset : Obligations.InvariantAtEveryReset := by
  intro p s h
  obtain ⟨hlen, ⟨-, hstart, hz⟩, rfl⟩ := State.resetWith_eq_next.1 h
  exact {
    memCanonical := resetMemory_wf hlen
    pcBound := by simp only [BitVec.toNat_ofNat]; omega
    stackBound := fun k => by simp [State.reset]
    noFaultBeforeHalt := fun _ => rfl
    causeOfHalt := nofun
    delayArmedInPast := nofun
    soundArmedInPast := nofun
    timeUnit := hz }

/-- The font, where it is the default one, is not listed (log 5). -/
theorem resetMemory_defaultParams : resetMemory defaultParams = [] := by decide

theorem resetWith_defaultParams : State.resetWith defaultParams = .next State.reset :=
  State.resetWith_eq_next.2 ⟨by decide, by decide, by rw [resetMemory_defaultParams]; rfl⟩

/-- Settles O16: the default reset is one of the resets of `InvariantAtEveryReset`. -/
theorem invariantAtReset : Obligations.InvariantAtReset :=
  invariantAtEveryReset _ _ resetWith_defaultParams

/-! ### The contents of memory after reset -/

theorem Memory.read_nil_of_font_le {a : Nat} (h : 80 ≤ a) : Memory.read [] a = 0 :=
  List.getD_eq_default _ _ h

/-- What memory holds after a reset (70_reset_and_hazards.md R191): the image where it lies, else the font, else 0. -/
theorem read_resetMemory {p : Params} (hp : p.programStart + p.program.length ≤ Config.memorySize) (a : Nat) :
    (resetMemory p).read a =
      if h : p.programStart ≤ a ∧ a - p.programStart < p.program.length then p.program[a - p.programStart]'h.2
      else if h : a < 80 then p.font[a] else 0 := by
  have hfont : 0 + p.font.toList.length ≤ Config.memorySize := by simp [Config.memorySize]
  rw [resetMemory, Memory.read_writeBytes (Memory.writeBytes_wf Memory.nil_wf hfont) hp,
    Memory.read_writeBytes Memory.nil_wf hfont]
  congr 1
  funext _
  by_cases ha : a < 80
  · simp [ha]
  · simp [ha, Memory.read_nil_of_font_le (Nat.le_of_not_lt ha)]

/-- Settles O14: registers and flags are the constants of `State.reset`, memory is read by `read_resetMemory`. -/
theorem resetState : Obligations.ResetState := by
  refine ⟨fun p hlen hlo hhi hz => ?_, resetWith_defaultParams⟩
  have hread := read_resetMemory hlen
  refine ⟨_, State.resetWith_eq_next.2 ⟨hlen, ⟨hlo, hhi, hz⟩, rfl⟩, fun r => by simp [State.reg, State.reset], rfl, ?pc, rfl,
    fun k => by simp [State.reset], rfl, rfl, Framebuffer.pixel_blank, fun k => by simp [State.reset], rfl, rfl, rfl,
    fun a ha => ?font, fun a ha hap => ?gap, fun k hk => ?program, fun a hpa ha => ?rest⟩
  case pc => simp only [BitVec.toNat_ofNat]; omega
  case font => rw [hread, dif_neg (by omega), dif_pos ha]
  case gap => rw [hread, dif_neg (by omega), dif_neg (by omega)]
  case program => rw [hread, dif_pos (by omega)]; simp
  case rest => rw [hread, dif_neg (by omega), dif_neg (by omega)]

end Sys2Proof.Machine
end

section
/-! Timers and the inputs of a step (10_state.md R30 to R34). -/

namespace Sys2Proof.Machine

theorem Timer.toNat_value (timeHz : Nat) (T : Timer) (t : Nat) :
    (T.value timeHz t).toNat = if T.armed then T.stored.toNat - ticks timeHz (t - T.armedAt) else 0 := by
  have := T.stored.isLt
  unfold Timer.value
  split
  · rw [BitVec.toNat_ofNat, Nat.mod_eq_of_lt (by omega)]
  · rfl

/-- The machine's natural numbers give the integers of R30. -/
theorem Timer.value_eq_spec (timeHz : Nat) (T : Timer) (t : Nat) :
    ((T.value timeHz t).toNat : Int) = specTimerValue timeHz T t := by
  have hd : max 0 ((t : Int) - T.armedAt) = ((t - T.armedAt : Nat) : Int) := by omega
  rw [Timer.toNat_value, specTimerValue, hd]
  split
  · have hticks : ((t - T.armedAt : Nat) : Int) * 60 / timeHz = (ticks timeHz (t - T.armedAt) : Int) := by
      simp [ticks, Config.timerRate]
    rw [hticks]
    omega
  · rfl

theorem ticks_mono (timeHz : Nat) {d e : Nat} (h : d ≤ e) : ticks timeHz d ≤ ticks timeHz e :=
  Nat.div_le_div_right (Nat.mul_le_mul_right _ h)

/-- Settles O47: by `Timer.toNat_value`, from ticks that never decrease and reach `n` after `n * TIME_HZ / 60` units. -/
theorem timersDecayToZero : Obligations.TimersDecayToZero := by
  refine ⟨fun s t => ⟨s.DT.value_eq_spec _ t, s.ST.value_eq_spec _ t⟩, fun timeHz T t u hz htu => ⟨?_, ?_, fun hend => ?_⟩⟩
  · have := ticks_mono timeHz (Nat.sub_le_sub_right htu T.armedAt)
    rw [T.toNat_value, T.toNat_value]
    split <;> omega
  · rw [T.toNat_value]
    split <;> omega
  · have : T.stored.toNat ≤ ticks timeHz (t - T.armedAt) := (Nat.le_div_iff_mul_le hz).2 hend
    apply BitVec.eq_of_toNat_eq
    rw [T.toNat_value]
    split
    · exact Nat.sub_eq_zero_of_le this
    · rfl

/-- Settles O7: by the two cases of the list of inputs. -/
theorem inputsOfAStep : Obligations.InputsOfAStep :=
  ⟨fun s i rest h => by simp [State.takeInput, State.nextInput, h],
   fun s h => by simp [State.takeInput, State.nextInput, h]⟩

end Sys2Proof.Machine
end

section
/-!
Noninterference (10_state.md R24, R28, R33, R34): an instruction that does not read an input of the step does the same whatever
that input is.
-/

namespace Sys2Proof.Machine

/-- The instructions that read the time sample (R28, R33). -/
def readsTime (i : Instr) : Prop := (∃ x, i = .ldVxDT x) ∨ (∃ x, i = .ldDTVx x) ∨ ∃ x, i = .ldSTVx x

/-- The instruction that reads the random sample (R34). -/
def readsRandom (i : Instr) : Prop := ∃ x kk, i = .rnd x kk

/-- The instructions that read the key latch (R24). -/
def readsKeys (i : Instr) : Prop := (∃ x, i = .skp x) ∨ (∃ x, i = .sknp x) ∨ ∃ x, i = .ldVxK x

/-- The state with other samples of the inputs of a step. -/
def State.withSamples (s : State) (n : Nat) (b : Byte) (k : Vector Bool 16) : State := { s with now := n, rnd := b, key := k }

/-! ### The operations that branch -/

variable {s t : State} {n : Nat} {b : Byte} {k : Vector Bool 16}

theorem State.skipIf_withSamples (c : Bool) : (s.withSamples n b k).skipIf c = (s.skipIf c).withSamples n b k := by
  cases c <;> rfl

theorem State.withRange_withSamples {count : Nat} {w : Word} {act act' : State} (h : act' = act.withSamples n b k) :
    (s.withSamples n b k).withRange count w act' = (s.withRange count w act).withSamples n b k := by
  have hI : (s.withSamples n b k).I = s.I := rfl
  rw [h, State.withRange, State.withRange, hI]
  cases rangeFault s.I count <;> rfl

theorem State.withKey_withSamples {a : Byte} {w : Word} {act act' : Fin 16 → State}
    (h : ∀ j, act' j = (act j).withSamples n b k) :
    (s.withSamples n b k).withKey a w act' = (s.withKey a w act).withSamples n b k := by
  rw [State.withKey, State.withKey]
  cases keyCode a with
  | none => rfl
  | some j => exact h j

theorem State.dite_withSamples {c : Prop} [Decidable c] {f f' : c → State} {g g' : ¬ c → State}
    (hf : ∀ hc, f' hc = (f hc).withSamples n b k) (hg : ∀ hc, g' hc = (g hc).withSamples n b k) :
    (if hc : c then f' hc else g' hc) = (if hc : c then f hc else g hc).withSamples n b k := by
  split
  · exact hf _
  · exact hg _

theorem exec_ldVxK_withSamples {x : RegIx} (h : exec (.ldVxK x) s = .next t) :
    exec (.ldVxK x) (s.withSamples n b s.key) = .next (t.withSamples n b s.key) := by
  have hkey : (s.withSamples n b s.key).key = s.key := rfl
  simp only [exec, execLdVxK, hkey] at h ⊢
  cases hl : lowestPressed s.key <;> rw [hl] at h <;> cases h <;> rfl

/-! ### Every instruction -/

/-- Executing with other samples of the inputs that the instruction does not read gives the same next state, with those samples. -/
theorem exec_withSamples {i : Instr} (h : exec i s = .next t) (hn : readsTime i → n = s.now) (hb : readsRandom i → b = s.rnd)
    (hk : readsKeys i → k = s.key) : exec i (s.withSamples n b k) = .next (t.withSamples n b k) := by
  cases i with
  | ldVxDT | ldDTVx | ldSTVx => obtain rfl := hn (by simp [readsTime]); cases h; rfl
  | rnd => obtain rfl := hb (by simp [readsRandom]); cases h; rfl
  | skp | sknp =>
    obtain rfl := hk (by simp [readsKeys])
    cases h
    exact congrArg Host.Outcome.next (State.withKey_withSamples fun _ => State.skipIf_withSamples _)
  | ldVxK => obtain rfl := hk (by simp [readsKeys]); exact exec_ldVxK_withSamples h
  | seImm | sneImm | seReg | sneReg => cases h; exact congrArg Host.Outcome.next (State.skipIf_withSamples _)
  | drw | ldB | storeRegs | loadRegs => cases h; exact congrArg Host.Outcome.next (State.withRange_withSamples rfl)
  | ret | call =>
    cases h
    exact congrArg Host.Outcome.next (State.dite_withSamples (fun _ => rfl) (fun _ => rfl))
  | _ => cases h; rfl

/-- Settles O55: two uses of `exec_withSamples`, the inputs that are not changed being kept by `noInstructionWritesInputs`. -/
theorem timeAndRandomReachOnlyTheirReaders : Obligations.TimeAndRandomReachOnlyTheirReaders := by
  intro i s t n b h
  obtain ⟨hkey, hnow, hrnd, -⟩ := noInstructionWritesInputs i s t h
  refine ⟨fun hR hD hS => ?_, fun hC => ?_⟩
  · have hn : ¬ readsTime i := by
      rintro (⟨x, hi⟩ | ⟨x, hi⟩ | ⟨x, hi⟩)
      · exact hR x hi
      · exact hD x hi
      · exact hS x hi
    simpa only [State.withSamples, hkey, hrnd] using
      exec_withSamples (n := n) h (absurd · hn) (fun _ => rfl) (fun _ => rfl)
  · have hb : ¬ readsRandom i := fun ⟨x, kk, hi⟩ => hC x kk hi
    simpa only [State.withSamples, hkey, hnow] using
      exec_withSamples (b := b) h (fun _ => rfl) (absurd · hb) (fun _ => rfl)

/-- Settles O56: a use of `exec_withSamples` in the same way. -/
theorem keysReachOnlyTheirReaders : Obligations.KeysReachOnlyTheirReaders := by
  intro i s t keys h hP hN hW
  obtain ⟨-, hnow, hrnd, -⟩ := noInstructionWritesInputs i s t h
  have hk : ¬ readsKeys i := by
    rintro (⟨x, hi⟩ | ⟨x, hi⟩ | ⟨x, hi⟩)
    · exact hP x hi
    · exact hN x hi
    · exact hW x hi
  simpa only [State.withSamples, hnow, hrnd] using
    exec_withSamples (k := keys) h (fun _ => rfl) (fun _ => rfl) (absurd · hk)

end Sys2Proof.Machine
end

section
/-!
Memory and instruction fetch (20_memory.md R43, R44, R50): what the engine does with a fetched word and without one, and what is
read back from where `Fx55` has stored.
-/

namespace Sys2Proof.Machine

variable {s : State}

/-! ### The step by its fetch -/

/-- A fetched word that decodes is executed after the advance of `pc` (R43). -/
theorem engineStep_of_fetch_eq_some {w : Word} {i : Instr} (hh : s.halted = false) (hf : s.fetch = some w)
    (hd : decodeWord w = some i) : engineStep s = exec i s.advance := by
  simp [engineStep, hh, hf, hd]

/-- The running engine faults when there is nothing to fetch (R44). -/
theorem engineStep_of_fetch_eq_none (hh : s.halted = false) (hf : s.fetch = none) :
    engineStep s = .next (s.takeFault .fetchBoundsFault s.pc 0 s.pc.toNat) := by
  simp [engineStep, hh, hf]

/-- The fetched word is the one whose number is `mem[pc] * 256 + mem[pc + 1]` (R43). -/
theorem State.fetch_eq_some_of_toNat {w : Word} (hpc : s.pc.toNat ≤ 0xFFE)
    (hw : w.toNat = (s.mem.read s.pc.toNat).toNat * 256 + (s.mem.read (s.pc.toNat + 1)).toNat) : s.fetch = some w := by
  rw [State.fetch_of_le hpc, BitVec.eq_of_toNat_eq (hw.trans (toNat_composeWord _ _).symm)]

/-- Settles O6: the word is the fetched one, and the inputs of the step change neither `pc` nor memory. -/
theorem stepRunsDecodedInstruction : Obligations.StepRunsDecodedInstruction := by
  intro s w i hh hpc hw hd
  have hf : s.takeInput.fetch = some w := State.fetch_eq_some_of_toNat hpc hw
  exact engineStep_of_fetch_eq_some hh hf hd

/-- Settles O8: beyond 0xFFE there is nothing to fetch, and the fault is the one recorded with `pc`. -/
theorem fetchBeyondMemoryHalts : Obligations.FetchBeyondMemoryHalts := by
  intro s hh hpc
  have hf : s.takeInput.fetch = none := State.fetch_of_gt hpc
  have hinfo : BitVec.ofNat 32 s.pc.toNat = s.pc.setWidth 32 := BitVec.ofNat_toNat 32 s.pc
  rw [← hinfo]
  exact engineStep_of_fetch_eq_none hh hf

/-! ### The block that `Fx55` stores -/

/-- `CheckRange` passes and the action takes place when the range lies inside memory (R42). -/
theorem State.withRange_of_le {count : Nat} {word : Word} {act : State} (h : s.I.toNat + count ≤ Config.memorySize) :
    s.withRange count word act = act := by
  rw [State.withRange, rangeFault_eq_none.2 (.inr h)]

/-- `Fx55` stores its block when the block lies inside memory (43_index_memory.md R124). -/
theorem exec_storeRegs_of_le {x : RegIx} (h : s.I.toNat + x.toNat ≤ 0xFFF) :
    exec (.storeRegs x) s = .next (s.store s.I.toNat (s.firstRegs (x.toNat + 1))) :=
  congrArg Host.Outcome.next (State.withRange_of_le (Nat.succ_le_succ h))

/-- Each register of a stored block is read back at its place in the block. -/
theorem State.read_store_firstRegs {a n : Nat} {k : RegIx} (hm : s.mem.wf) (hn : n ≤ 16) (ha : a + n ≤ Config.memorySize)
    (hk : k.toNat < n) : (s.store a (s.firstRegs n)).mem.read (a + k.toNat) = s.reg k := by
  have hlen : (s.firstRegs n).length = n := s.length_firstRegs hn
  have hin : a ≤ a + k.toNat ∧ a + k.toNat - a < (s.firstRegs n).length := by omega
  rw [State.store_mem, Memory.read_writeBytes hm (hlen.symm ▸ ha), dif_pos hin, State.getElem_firstRegs]
  simp only [Nat.add_sub_cancel_left, State.reg]

/-- Settles O38: the fetch composes the two bytes at the places of `V[j]` and `V[j + 1]` in the stored block. -/
theorem storedWordIsFetched : Obligations.StoredWordIsFetched := by
  intro x j k s t hm hx hjk hkx h hpc
  obtain rfl : s.store s.I.toNat (s.firstRegs (x.toNat + 1)) = t :=
    Host.Outcome.next.inj ((exec_storeRegs_of_le hx).symm.trans h)
  have hread (r : RegIx) (hr : r.toNat ≤ x.toNat) :=
    State.read_store_firstRegs (k := r) hm x.isLt (Nat.succ_le_succ hx) (Nat.lt_succ_of_le hr)
  refine ⟨_, State.fetch_of_le (by omega), ?_⟩
  rw [toNat_composeWord, hpc, Nat.add_assoc, ← hjk, hread j (by omega), hread k hkx]

end Sys2Proof.Machine
end

section
/-!
Decoding and encoding are inverse (30_encoding.md R61 to R67): what a word decodes to is well-formed and encodes to the word, by the
families of R64; and the fields of an encoded instruction lead the decoder back to it.
-/

namespace Sys2Proof

open Machine

variable {w : Word} {op : Nibble}

/-! ### Words with given fields -/

theorem wordNNN_eq (hop : fieldOp w = op) : wordNNN op (fieldNNN w) = w :=
  hop ▸ wordNNN_fields w

theorem wordXKK_eq {kk : Byte} (hop : fieldOp w = op) (hkk : fieldKK w = kk) : wordXKK op (fieldX w) kk = w :=
  hop ▸ hkk ▸ wordXKK_fields w

theorem wordXYN_eq {n : Nibble} (hop : fieldOp w = op) (hn : fieldN w = n) : wordXYN op (fieldX w) (fieldY w) n = w :=
  hop ▸ hn ▸ wordXYN_fields w

/-! ### What a word decodes to -/

theorem decodeFamily0_sound (hop : fieldOp w = 0x0#4) : (decodeFamily0 w).wf = true ∧ encode (decodeFamily0 w) = w := by
  have hw := wordNNN_eq hop
  unfold decodeFamily0
  split_ifs with hcls hret
  · exact ⟨rfl, hcls.symm⟩
  · exact ⟨rfl, hret.symm⟩
  · have hcls' : fieldNNN w ≠ 0x0E0#12 := fun h => hcls (by rw [← hw, h]; rfl)
    have hret' : fieldNNN w ≠ 0x0EE#12 := fun h => hret (by rw [← hw, h]; rfl)
    exact ⟨by simp [Instr.wf, hcls', hret'], hw⟩

theorem decodeFamily8_sound (hop : fieldOp w = 0x8#4) : (decodeFamily8 w).wf = true ∧ encode (decodeFamily8 w) = w := by
  unfold decodeFamily8
  split
  case h_10 => exact ⟨by simp_all [Instr.wf, definedSub8], wordXYN_eq hop rfl⟩
  all_goals exact ⟨rfl, wordXYN_eq hop ‹fieldN w = _›⟩

theorem decodeFamilyE_sound (hop : fieldOp w = 0xE#4) : (decodeFamilyE w).wf = true ∧ encode (decodeFamilyE w) = w := by
  unfold decodeFamilyE
  split
  case h_3 => exact ⟨by simp_all [Instr.wf, definedSubE], wordXKK_eq hop rfl⟩
  all_goals exact ⟨rfl, wordXKK_eq hop ‹fieldKK w = _›⟩

theorem decodeFamilyF_sound (hop : fieldOp w = 0xF#4) : (decodeFamilyF w).wf = true ∧ encode (decodeFamilyF w) = w := by
  unfold decodeFamilyF
  split
  case h_10 => exact ⟨by simp_all [Instr.wf, definedSubF], wordXKK_eq hop rfl⟩
  all_goals exact ⟨rfl, wordXKK_eq hop ‹fieldKK w = _›⟩

/-- The decoder answers only well-formed instructions (R66, R69), and no bit of the word is lost in them. -/
theorem decodeWord_sound {i : Instr} (h : decodeWord w = some i) : i.wf = true ∧ encode i = w := by
  unfold decodeWord at h
  split at h <;> rename_i hop <;> cases h
  case h_1 => exact decodeFamily0_sound hop
  case h_9 => exact decodeFamily8_sound hop
  case h_15 => exact decodeFamilyE_sound hop
  case h_16 => exact decodeFamilyF_sound hop
  case h_2 | h_3 | h_11 | h_12 => exact ⟨rfl, wordNNN_eq hop⟩
  case h_4 | h_5 | h_7 | h_8 | h_13 => exact ⟨rfl, wordXKK_eq hop rfl⟩
  case h_6 | h_10 | h_14 => exact ⟨rfl, wordXYN_eq hop rfl⟩

theorem exists_decodeWord_eq_some (w : Word) : ∃ i, decodeWord w = some i :=
  Option.ne_none_iff_exists'.1 (decodeWord_ne_none w)

/-- Settles O5: by `decodeWord_sound`, family by family. -/
theorem encodeDecodeRoundTrip : Obligations.EncodeDecodeRoundTrip :=
  fun _ _ h => (decodeWord_sound h).2

/-! ### The catch-all rows -/

theorem decodeFamily0_eq_sys {nnn : Addr} (h : (Instr.sys nnn).wf = true) :
    decodeFamily0 (wordNNN 0x0#4 nnn) = .sys nnn := by
  simp only [Instr.wf, Bool.and_eq_true, bne_iff_ne] at h
  obtain ⟨hcls, hret⟩ := h
  have hnnn := fieldNNN_wordNNN 0x0#4 nnn
  have hcls' : wordNNN 0x0#4 nnn ≠ 0x00E0#16 := fun h => hcls (by rw [← hnnn, h]; rfl)
  have hret' : wordNNN 0x0#4 nnn ≠ 0x00EE#16 := fun h => hret (by rw [← hnnn, h]; rfl)
  rw [decodeFamily0, if_neg hcls', if_neg hret', hnnn]

theorem decodeFamily8_eq_nop8 (h : fieldN w ∉ definedSub8) :
    decodeFamily8 w = .nop8 (fieldX w) (fieldY w) (fieldN w) := by
  unfold decodeFamily8
  split
  case h_10 => rfl
  all_goals exact absurd (by simp [definedSub8, *]) h

theorem decodeFamilyE_eq_nopE (h : fieldKK w ∉ definedSubE) : decodeFamilyE w = .nopE (fieldX w) (fieldKK w) := by
  unfold decodeFamilyE
  split
  case h_3 => rfl
  all_goals exact absurd (by simp [definedSubE, *]) h

theorem decodeFamilyF_eq_nopF (h : fieldKK w ∉ definedSubF) : decodeFamilyF w = .nopF (fieldX w) (fieldKK w) := by
  unfold decodeFamilyF
  split
  case h_10 => rfl
  all_goals exact absurd (by simp [definedSubF, *]) h

/-- Settles O4: the fields of the encoded word select the instruction's row; only at the catch-all rows of families 0, 8, E and F is
well-formedness needed, so that no earlier row takes the word. -/
theorem decodeEncodeRoundTrip : Obligations.DecodeEncodeRoundTrip := by
  intro i hi
  cases i with
  | cls | ret => rfl
  | sys nnn => simp [encode, decodeWord, decodeFamily0_eq_sys hi]
  | nop8 x y n =>
    have hn : fieldN (wordXYN 0x8#4 x y n) ∉ definedSub8 := by simpa [Instr.wf] using hi
    simp [encode, decodeWord, decodeFamily8_eq_nop8 hn]
  | nopE x kk =>
    have hkk : fieldKK (wordXKK 0xE#4 x kk) ∉ definedSubE := by simpa [Instr.wf] using hi
    simp [encode, decodeWord, decodeFamilyE_eq_nopE hkk]
  | nopF x kk =>
    have hkk : fieldKK (wordXKK 0xF#4 x kk) ∉ definedSubF := by simpa [Instr.wf] using hi
    simp [encode, decodeWord, decodeFamilyF_eq_nopF hkk]
  | _ => simp [encode, decodeWord, decodeFamily8, decodeFamilyE, decodeFamilyF]

/-! ### No word is illegal -/

theorem Machine.FaultCause.code_ne_one {c : FaultCause} (h : c ≠ .decodeFault) : c.code ≠ 1 := by
  cases c with
  | decodeFault => exact absurd rfl h
  | _ => decide

/-- No instruction records the decode fault (60_exceptions.md R161). -/
theorem Machine.Effect.fault_cause_ne_one {i : Instr} {s t : State} (he : Effect i s t) (hs : s.fault.cause ≠ 1) :
    t.fault.cause ≠ 1 := by
  cases he with
  | fault c hc => exact FaultCause.code_ne_one hc
  | _ => exact hs

/-- Settles O3: every word decodes, so the engine's only faults are the one of the fetch and those of the instructions. -/
theorem noWordIsIllegal : Obligations.NoWordIsIllegal := by
  refine ⟨fun w => ?_, fun s t h hs => ?_⟩
  · obtain ⟨i, hi⟩ := exists_decodeWord_eq_some w
    exact ⟨i, hi, (decodeWord_sound hi).1⟩
  · obtain ⟨-, e⟩ | ⟨-, -, e⟩ | ⟨w, -, -, -, hd, -⟩ | ⟨w, i, -, -, -, -, e⟩ := engineStep_cases s
    · exact Host.Outcome.next.inj (e.symm.trans h) ▸ hs
    · exact Host.Outcome.next.inj (e.symm.trans h) ▸ FaultCause.code_ne_one (c := .fetchBoundsFault) nofun
    · exact absurd hd (decodeWord_ne_none w)
    · exact (effect_of_exec (e.symm.trans h)).fault_cause_ne_one hs

/-- Settles O1: the decoder computes on the fifteen words. -/
theorem decodeOfSpecWords : Obligations.DecodeOfSpecWords := by
  unfold Obligations.DecodeOfSpecWords
  decide

end Sys2Proof
end

section
/-!
The decoder is the opcode map of 30_encoding.md R65: the top nibble leaves the lines of one family (R64), and within a family a match
under a line's mask compares the field that the mask keeps besides the top nibble.
-/

namespace Sys2Proof

variable {w : Word} {op : Nibble}

/-! ### Words under the masks of the map -/

theorem wordNNN_and (op op' : Nibble) (nnn nnn' : Addr) :
    wordNNN op nnn &&& wordNNN op' nnn' = wordNNN (op &&& op') (nnn &&& nnn') :=
  BitVec.and_append

theorem wordXKK_and (op op' : Nibble) (x x' : RegIx) (kk kk' : Byte) :
    wordXKK op x kk &&& wordXKK op' x' kk' = wordXKK (op &&& op') (x &&& x') (kk &&& kk') :=
  BitVec.and_append.trans (congrArg _ BitVec.and_append)

theorem wordXYN_and (op op' : Nibble) (x x' y y' : RegIx) (n n' : Nibble) :
    wordXYN op x y n &&& wordXYN op' x' y' n' = wordXYN (op &&& op') (x &&& x') (y &&& y') (n &&& n') :=
  BitVec.and_append.trans (congrArg _ (BitVec.and_append.trans (congrArg _ BitVec.and_append)))

theorem and_F000 (w : Word) : w &&& 0xF000#16 = wordNNN (fieldOp w) 0#12 := by
  have h := wordNNN_and (fieldOp w) (BitVec.allOnes 4) (fieldNNN w) 0#12
  rwa [wordNNN_fields, BitVec.and_allOnes, BitVec.and_zero] at h

theorem and_F00F (w : Word) : w &&& 0xF00F#16 = wordXYN (fieldOp w) 0#4 0#4 (fieldN w) := by
  have h := wordXYN_and (fieldOp w) (BitVec.allOnes 4) (fieldX w) 0#4 (fieldY w) 0#4 (fieldN w) (BitVec.allOnes 4)
  rwa [wordXYN_fields, BitVec.and_allOnes, BitVec.and_allOnes, BitVec.and_zero, BitVec.and_zero] at h

theorem and_F0FF (w : Word) : w &&& 0xF0FF#16 = wordXKK (fieldOp w) 0#4 (fieldKK w) := by
  have h := wordXKK_and (fieldOp w) (BitVec.allOnes 4) (fieldX w) 0#4 (fieldKK w) (BitVec.allOnes 8)
  rwa [wordXKK_fields, BitVec.and_allOnes, BitVec.and_allOnes, BitVec.and_zero] at h

/-! ### Matching a line

The bit ranges of the match value `c` are written out, so that `simp` computes them for the numbers of the map. -/

/-- The word has the line's match value under its mask (R65). -/
def matchesLine (w : Word) (line : OpcodeLine) : Bool := w &&& line.2.1 == line.1

theorem matchesLine_FFFF (c : Word) (f : Word → Instr) : matchesLine w (c, 0xFFFF#16, f) = decide (w = c) := by
  have hmask : w &&& 0xFFFF#16 = w := BitVec.and_allOnes
  rw [matchesLine, hmask, beq_eq_decide]

theorem matchesLine_F000 {c : Word} {f : Word → Instr} (hc : c &&& 0xF000#16 = c) :
    matchesLine w (c, 0xF000#16, f) = decide (fieldOp w = c.extractLsb' 12 4) := by
  rw [matchesLine, beq_eq_decide, decide_eq_decide]
  refine ⟨fun h => fieldOp_of_mask (m := 0xF000#16) h rfl, fun hop => ?_⟩
  rw [and_F000, hop]
  exact (and_F000 c).symm.trans hc

theorem matchesLine_F00F {c : Word} {f : Word → Instr} (hop : fieldOp w = c.extractLsb' 12 4) (hc : c &&& 0xF00F#16 = c) :
    matchesLine w (c, 0xF00F#16, f) = decide (fieldN w = c.extractLsb' 0 4) := by
  rw [matchesLine, beq_eq_decide, decide_eq_decide]
  refine ⟨fun h => fieldN_of_mask (m := 0xF00F#16) h rfl, fun hn => ?_⟩
  rw [and_F00F, hop, hn]
  exact (and_F00F c).symm.trans hc

theorem matchesLine_F0FF {c : Word} {f : Word → Instr} (hop : fieldOp w = c.extractLsb' 12 4) (hc : c &&& 0xF0FF#16 = c) :
    matchesLine w (c, 0xF0FF#16, f) = decide (fieldKK w = c.extractLsb' 0 8) := by
  rw [matchesLine, beq_eq_decide, decide_eq_decide]
  refine ⟨fun h => fieldKK_of_mask (m := 0xF0FF#16) h rfl, fun hkk => ?_⟩
  rw [and_F0FF, hop, hkk]
  exact (and_F0FF c).symm.trans hc

/-! ### The lines of a family -/

/-- The lines of the opcode map whose match value has the top nibble `op`, in the map's order. -/
def opcodeFamily (op : Nibble) : List OpcodeLine := opcodeMap.filter (fun line => fieldOp line.1 == op)

/-- The instruction of the first line of the opcode map that the word matches (R65, R73). -/
def opcodeMapDecode (w : Word) : Option Instr := (opcodeMap.find? (matchesLine w)).map (fun line => line.2.2 w)

/-- Every mask of the map keeps the top nibble. -/
theorem fieldOp_of_matchesLine {line : OpcodeLine} (hl : line ∈ opcodeMap) (h : matchesLine w line = true) :
    fieldOp line.1 = fieldOp w := by
  have hmask : ∀ line ∈ opcodeMap, fieldOp line.2.1 = 0xF#4 := by decide
  exact (fieldOp_of_mask (beq_iff_eq.1 h) (hmask line hl)).symm

theorem opcodeMapDecode_of_family {lines : List OpcodeLine} (hop : fieldOp w = op) (hl : opcodeFamily op = lines) :
    opcodeMapDecode w = (lines.find? (matchesLine w)).map (fun line => line.2.2 w) := by
  rw [← hl, ← hop, opcodeMapDecode, opcodeFamily, List.find?_filter]
  congr 1
  refine List.find?_congr fun line hl => ?_
  simpa using fieldOp_of_matchesLine hl

/-- The families of one instruction: the mask of their only line keeps the top nibble alone. -/
theorem opcodeMapDecode_of_singleton {f : Word → Instr} (hop : fieldOp w = op)
    (hl : opcodeFamily op = [(wordNNN op 0#12, 0xF000#16, f)]) : opcodeMapDecode w = some (f w) := by
  have hm : matchesLine w (wordNNN op 0#12, 0xF000#16, f) = true := by
    rw [matchesLine, and_F000, hop, beq_iff_eq]
  rw [opcodeMapDecode_of_family hop hl, List.find?_cons_of_pos hm, Option.map_some]

theorem opcodeMapDecode_family0 (hop : fieldOp w = 0x0#4) : opcodeMapDecode w = some (decodeFamily0 w) := by
  rw [opcodeMapDecode_of_family hop (lines := opcodeMapLow.take 3) rfl]
  unfold decodeFamily0
  split_ifs <;> simp_all [opcodeMapLow, matchesLine_FFFF, matchesLine_F000, fieldNNN]

/-- In each arm of the decoder the low nibble is the arm's, or none that a line before the last compares it with. -/
theorem opcodeMapDecode_family8 (hop : fieldOp w = 0x8#4) : opcodeMapDecode w = some (decodeFamily8 w) := by
  rw [opcodeMapDecode_of_family hop (lines := opcodeMapFamily8) rfl]
  unfold decodeFamily8
  split <;> simp_all [opcodeMapFamily8, matchesLine_F00F, matchesLine_F000] <;> simp [fieldX, fieldY, fieldN]

/-- As in family 8, by the low byte. -/
theorem opcodeMapDecode_familyE (hop : fieldOp w = 0xE#4) : opcodeMapDecode w = some (decodeFamilyE w) := by
  rw [opcodeMapDecode_of_family hop (lines := opcodeMapHigh.drop 5) rfl]
  unfold decodeFamilyE
  split <;> simp_all [opcodeMapHigh, matchesLine_F0FF, matchesLine_F000] <;> simp [fieldX, fieldKK]

/-- As in family E. -/
theorem opcodeMapDecode_familyF (hop : fieldOp w = 0xF#4) : opcodeMapDecode w = some (decodeFamilyF w) := by
  rw [opcodeMapDecode_of_family hop (lines := opcodeMapFamilyF) rfl]
  unfold decodeFamilyF
  split <;> simp_all [opcodeMapFamilyF, matchesLine_F0FF, matchesLine_F000] <;> simp [fieldX, fieldKK]

/-- Settles O2: by the families of R64; twelve of them are one line, families 0, 8, E and F have lemmas of their own. -/
theorem decoderFollowsOpcodeMap : Obligations.DecoderFollowsOpcodeMap := by
  intro w
  obtain ⟨i, hd⟩ := exists_decodeWord_eq_some w
  change decodeWord w = opcodeMapDecode w
  rw [hd]
  unfold decodeWord at hd
  split at hd <;> rename_i hop <;> cases hd <;> symm
  case h_1 => exact opcodeMapDecode_family0 hop
  case h_9 => exact opcodeMapDecode_family8 hop
  case h_15 => exact opcodeMapDecode_familyE hop
  case h_16 => exact opcodeMapDecode_familyF hop
  all_goals exact opcodeMapDecode_of_singleton hop rfl

end Sys2Proof
end

section
/-!
Control transfer (40_control_transfer.md): which words decode to the jumps and the call, the targets as numbers, and `2nnn` and `00EE` by
what the stack pointer allows.
-/

namespace Sys2Proof.Machine

variable {s : State} {w : Word}

/-! ### Decoding -/

/-- A word of a family has the top nibble of its match value (30_encoding.md R64, R65). -/
theorem fieldOp_of_mask_F000 {c : Word} (h : w &&& 0xF000#16 = c) : fieldOp w = fieldOp c :=
  fieldOp_of_mask h rfl

theorem decodeWord_eq_sys (hw : w &&& 0xF000#16 = 0x0000#16) (hcls : w ≠ 0x00E0#16) (hret : w ≠ 0x00EE#16) :
    decodeWord w = some (.sys (fieldNNN w)) := by
  have hop : fieldOp w = 0x0#4 := fieldOp_of_mask_F000 hw
  simp [decodeWord, hop, decodeFamily0, hcls, hret]

theorem decodeWord_eq_jp (hw : w &&& 0xF000#16 = 0x1000#16) : decodeWord w = some (.jp (fieldNNN w)) := by
  have hop : fieldOp w = 0x1#4 := fieldOp_of_mask_F000 hw
  simp [decodeWord, hop]

theorem decodeWord_eq_call (hw : w &&& 0xF000#16 = 0x2000#16) : decodeWord w = some (.call (fieldNNN w)) := by
  have hop : fieldOp w = 0x2#4 := fieldOp_of_mask_F000 hw
  simp [decodeWord, hop]

theorem decodeWord_eq_jpV0 (hw : w &&& 0xF000#16 = 0xB000#16) : decodeWord w = some (.jpV0 (fieldNNN w)) := by
  have hop : fieldOp w = 0xB#4 := fieldOp_of_mask_F000 hw
  simp [decodeWord, hop]

/-! ### Targets -/

theorem toNat_addrOperand (nnn : Addr) : (addrOperand nnn).toNat = nnn.toNat :=
  BitVec.toNat_setWidth_of_le (by decide)

/-- No carry leaves the 16 bits of `pc` (R84). -/
theorem toNat_offsetTarget (v : Byte) (nnn : Addr) : (offsetTarget v nnn).toNat = v.toNat + nnn.toNat := by
  have hv := v.isLt
  have hnnn := nnn.isLt
  simp only [offsetTarget, BitVec.toNat_add, BitVec.toNat_setWidth]
  omega

/-! ### Call and return -/

/-- With room on the stack `2nnn` pushes and jumps (R83). -/
theorem exec_call_of_lt (nnn : Addr) (h : s.sp.val < 16) :
    exec (.call nnn) s = .next ((s.push s.pc h).setPc (addrOperand nnn)) :=
  congrArg Host.Outcome.next (dif_pos h)

/-- With a full stack `2nnn` raises the overflow (R83). -/
theorem exec_call_of_full (nnn : Addr) (h : s.sp.val = 16) :
    exec (.call nnn) s = .next (s.raise .stackOverflow (encode (.call nnn)) 16) := by
  rw [exec, execCall, dif_neg (by omega), h]

/-- With an entry on the stack `00EE` pops (R80). -/
theorem exec_ret_of_pos (h : 0 < s.sp.val) : exec .ret s = .next (s.popPc h) :=
  congrArg Host.Outcome.next (dif_pos h)

/-- With an empty stack `00EE` raises the underflow (R80). -/
theorem exec_ret_of_empty (h : s.sp.val = 0) : exec .ret s = .next (s.raise .stackUnderflow (encode .ret) 0) := by
  rw [exec, execRet, dif_neg (by omega), h]

/-- A pop takes the entry below the stack pointer (10_state.md R17). -/
theorem State.popPc_pc_of_sp {k : Nat} (hk : k < 16) (hsp : s.sp.val = k + 1) (h : 0 < s.sp.val) :
    (s.popPc h).pc = s.stack[k] := by
  simp [State.popPc, hsp]

/-- Settles O23: the call leaves the pushed `pc` in the entry below its stack pointer, where the return finds it. -/
theorem returnUndoesCall : Obligations.ReturnUndoesCall := by
  intro nnn s t u hs h hsp hstack
  obtain rfl : (s.push s.pc hs).setPc (addrOperand nnn) = t := Host.Outcome.next.inj ((exec_call_of_lt nnn hs).symm.trans h)
  have husp : u.sp.val = s.sp.val + 1 := congrArg Fin.val hsp
  have hpos : 0 < u.sp.val := by omega
  refine ⟨u.popPc hpos, exec_ret_of_pos hpos, ?_, ?_⟩
  · rw [State.popPc_pc_of_sp hs husp]
    simp [hstack]
  · apply Fin.ext
    rw [State.popPc_sp_val, husp, Nat.add_sub_cancel]

/-- Settles O19: both jumps load the zero-extended `nnn`. -/
theorem jumpsLoadTheAddress : Obligations.JumpsLoadTheAddress :=
  ⟨fun _ => decodeWord_eq_sys, fun _ => decodeWord_eq_jp,
   fun nnn _ => ⟨⟨_, rfl, toNat_addrOperand nnn, rfl⟩, ⟨_, rfl, toNat_addrOperand nnn, rfl⟩⟩⟩

/-- Settles O20: the target is the sum by `toNat_offsetTarget`. -/
theorem jumpWithOffset : Obligations.JumpWithOffset :=
  ⟨fun _ => decodeWord_eq_jpV0, fun nnn s => ⟨_, rfl, toNat_offsetTarget (s.reg 0) nnn, rfl⟩⟩

/-- Settles O21: by the two cases of the stack pointer; the push writes the entry at the old one alone. -/
theorem callPushesAndJumps : Obligations.CallPushesAndJumps := by
  refine ⟨fun _ => decodeWord_eq_call, fun nnn s => ⟨fun h => ?_, fun h => ?_⟩⟩
  · refine ⟨_, exec_call_of_lt nnn h, toNat_addrOperand nnn, rfl, ?_, fun k hk => ?_, rfl⟩
    · exact Vector.getElem_set_self h
    · exact Vector.getElem_set_ne h k.isLt hk.symm
  · exact ⟨_, exec_call_of_full nnn h, rfl, rfl, rfl⟩

/-- Settles O22: by the two cases of the stack pointer. -/
theorem returnPopsIntoPc : Obligations.ReturnPopsIntoPc :=
  ⟨rfl, fun _ => ⟨fun h => ⟨_, exec_ret_of_pos h, rfl, rfl, rfl⟩, fun h => ⟨_, exec_ret_of_empty h, rfl, rfl, rfl⟩⟩⟩

end Sys2Proof.Machine
end

section
/-!
Skips (41_skips.md R90 to R94): which words decode to them, and what a conditional skip does to `pc` and leaves unchanged.
-/

namespace Sys2Proof.Machine

variable {s : State} {w : Word}

/-! ### Decoding -/

theorem decodeWord_eq_seImm (hw : w &&& 0xF000#16 = 0x3000#16) : decodeWord w = some (.seImm (fieldX w) (fieldKK w)) := by
  have hop : fieldOp w = 0x3#4 := fieldOp_of_mask_F000 hw
  simp [decodeWord, hop]

theorem decodeWord_eq_sneImm (hw : w &&& 0xF000#16 = 0x4000#16) : decodeWord w = some (.sneImm (fieldX w) (fieldKK w)) := by
  have hop : fieldOp w = 0x4#4 := fieldOp_of_mask_F000 hw
  simp [decodeWord, hop]

theorem decodeWord_eq_seReg (hw : w &&& 0xF000#16 = 0x5000#16) :
    decodeWord w = some (.seReg (fieldX w) (fieldY w) (fieldN w)) := by
  have hop : fieldOp w = 0x5#4 := fieldOp_of_mask_F000 hw
  simp [decodeWord, hop]

theorem decodeWord_eq_sneReg (hw : w &&& 0xF000#16 = 0x9000#16) :
    decodeWord w = some (.sneReg (fieldX w) (fieldY w) (fieldN w)) := by
  have hop : fieldOp w = 0x9#4 := fieldOp_of_mask_F000 hw
  simp [decodeWord, hop]

/-! ### The conditional skip -/

@[simp] theorem State.skipIf_pc (c : Bool) : (s.skipIf c).pc = if c = true then s.pc + 2 else s.pc :=
  apply_ite State.pc (c = true) s.advance s

theorem State.skipIf_onlyPc (c : Bool) : OnlyPc s (s.skipIf c) := by
  cases c with
  | false => exact (rfl : s = s)
  | true => exact (rfl : s.advance = s.advance)

/-- A skip on equal bytes, by their values. -/
theorem State.skipIf_beq_pc (a b : Byte) :
    (s.skipIf (a == b)).pc = if a.toNat = b.toNat then s.pc + 2 else s.pc := by
  simp only [State.skipIf_pc, beq_iff_eq, BitVec.toNat_inj]

/-- A skip on different bytes, by their values. -/
theorem State.skipIf_bne_pc (a b : Byte) :
    (s.skipIf (a != b)).pc = if a.toNat = b.toNat then s.pc else s.pc + 2 := by
  simp only [State.skipIf_pc, bne_iff_ne, BitVec.toNat_inj, ne_eq, ite_not]

/-- Settles O24: both are a conditional skip on `V[x]` and `kk`. -/
theorem skipsOnImmediate : Obligations.SkipsOnImmediate :=
  ⟨fun _ => decodeWord_eq_seImm, fun _ => decodeWord_eq_sneImm, fun x kk s =>
    ⟨⟨_, rfl, State.skipIf_beq_pc (s.reg x) kk, State.skipIf_onlyPc _⟩,
     ⟨_, rfl, State.skipIf_bne_pc (s.reg x) kk, State.skipIf_onlyPc _⟩⟩⟩

/-- Settles O25: both are a conditional skip on `V[x]` and `V[y]`, whatever `n` is (the spec's D10). -/
theorem skipsOnRegisters : Obligations.SkipsOnRegisters :=
  ⟨fun _ => decodeWord_eq_seReg, fun _ => decodeWord_eq_sneReg, fun x y _ s =>
    ⟨⟨_, rfl, State.skipIf_beq_pc (s.reg x) (s.reg y), State.skipIf_onlyPc _⟩,
     ⟨_, rfl, State.skipIf_bne_pc (s.reg x) (s.reg y), State.skipIf_onlyPc _⟩⟩⟩

end Sys2Proof.Machine
end

section
/-!
Register load, arithmetic, logic, shift and random instructions (42_register_alu.md R100 to R113) and the no-op words: which words
decode to them, what they write, and what they leave unchanged.
-/

namespace Sys2Proof.Machine

variable {w : Word} {i : Instr}

/-! ### Decoding -/

/-- The word of a well-formed instruction decodes to it. -/
theorem decodeWord_of_encode_eq (hi : i.wf = true) (h : encode i = w) : decodeWord w = some i :=
  h ▸ decodeEncodeRoundTrip i hi

/-- The rows with the fields `x` and `kk` that take a whole family (30_encoding.md R65). -/
theorem decodeWord_of_mask_F000 {c : Word} (hw : w &&& 0xF000#16 = c) (hi : i.wf = true)
    (he : encode i = wordXKK (fieldOp c) (fieldX w) (fieldKK w)) : decodeWord w = some i :=
  decodeWord_of_encode_eq hi (he.trans (wordXKK_eq (fieldOp_of_mask_F000 hw) rfl))

/-- The defined rows of family 8 (R65). -/
theorem decodeWord_of_mask_F00F {c : Word} (hw : w &&& 0xF00F#16 = c) (hi : i.wf = true)
    (he : encode i = wordXYN (fieldOp c) (fieldX w) (fieldY w) (fieldN c)) : decodeWord w = some i :=
  decodeWord_of_encode_eq hi (he.trans (wordXYN_eq (fieldOp_of_mask hw rfl) (fieldN_of_mask hw rfl)))

/-- The low nibbles of R111 are none of the nine defined ones. -/
theorem nop8_wf (x y : RegIx) {n : Nibble} (hn : n ∈ [0x8#4, 0x9, 0xA, 0xB, 0xC, 0xD, 0xF]) : (Instr.nop8 x y n).wf = true := by
  have hdisjoint : ∀ n ∈ [0x8#4, 0x9, 0xA, 0xB, 0xC, 0xD, 0xF], (!definedSub8.contains n) = true := by decide
  exact hdisjoint n hn

theorem nopE_wf (x : RegIx) {kk : Byte} (hkk : kk ∉ definedSubE) : (Instr.nopE x kk).wf = true := by
  simpa [Instr.wf] using hkk

theorem nopF_wf (x : RegIx) {kk : Byte} (hkk : kk ∉ definedSubF) : (Instr.nopF x kk).wf = true := by
  simpa [Instr.wf] using hkk

/-! ### What the register writes leave unchanged -/

variable {s : State}

theorem State.setReg_onlyRegs (x : RegIx) (v : Byte) : OnlyRegs (· = x) s (s.setReg x v) :=
  ⟨rfl, fun _ hr => s.reg_setReg_ne v hr⟩

theorem State.setResultThenFlag_onlyRegs (x : RegIx) (result flag : Byte) :
    OnlyRegs (fun r => r = x ∨ r = 0xF) s (s.setResultThenFlag x result flag) := by
  refine ⟨rfl, fun r hr => ?_⟩
  obtain ⟨hx, hF⟩ := not_or.1 hr
  rw [State.reg_setResultThenFlag, if_neg hF, if_neg hx]

theorem State.setFlagThenResult_onlyRegs (x : RegIx) (flag result : Byte) :
    OnlyRegs (fun r => r = x ∨ r = 0xF) s (s.setFlagThenResult x flag result) := by
  refine ⟨rfl, fun r hr => ?_⟩
  obtain ⟨hx, hF⟩ := not_or.1 hr
  rw [State.reg_setFlagThenResult, if_neg hx, if_neg hF]

/-! ### Result and flag (10_state.md R26) -/

variable {x : RegIx}

theorem State.reg_setResultThenFlag_result (result flag : Byte) (hx : x ≠ 0xF) :
    (s.setResultThenFlag x result flag).reg x = result := by
  rw [State.reg_setResultThenFlag, if_neg hx, if_pos rfl]

theorem State.reg_setResultThenFlag_flag (result flag : Byte) : (s.setResultThenFlag x result flag).reg 0xF = flag := by
  rw [State.reg_setResultThenFlag, if_pos rfl]

theorem State.reg_setFlagThenResult_result (flag result : Byte) : (s.setFlagThenResult x flag result).reg x = result := by
  rw [State.reg_setFlagThenResult, if_pos rfl]

theorem State.reg_setFlagThenResult_flag (flag result : Byte) (hx : x ≠ 0xF) :
    (s.setFlagThenResult x flag result).reg 0xF = flag := by
  rw [State.reg_setFlagThenResult, if_neg hx.symm, if_pos rfl]

/-! ### The flags and the difference as numbers -/

theorem toNat_flagByte_decide (p : Prop) [Decidable p] : (flagByte (decide p)).toNat = if p then 1 else 0 := by
  by_cases h : p <;> simp [flagByte, h]

theorem toNat_flagByte_carryOut (a b : Byte) :
    (flagByte (carryOut a b)).toNat = if 256 ≤ a.toNat + b.toNat then 1 else 0 :=
  toNat_flagByte_decide _

theorem toNat_flagByte_noBorrow (a b : Byte) : (flagByte (noBorrow a b)).toNat = if b.toNat ≤ a.toNat then 1 else 0 :=
  toNat_flagByte_decide _

theorem toNat_flagByte_getLsbD (a : Byte) (k : Nat) : (flagByte (a.getLsbD k)).toNat = a.toNat / 2 ^ k % 2 := by
  rw [BitVec.getLsbD, Nat.testBit_eq_decide_div_mod_eq, toNat_flagByte_decide]
  split <;> omega

theorem toNat_flagByte_shiftedOutLow (a : Byte) : (flagByte (shiftedOutLow a)).toNat = a.toNat % 2 := by
  rw [shiftedOutLow, toNat_flagByte_getLsbD, pow_zero, Nat.div_one]

theorem toNat_flagByte_shiftedOutHigh (a : Byte) : (flagByte (shiftedOutHigh a)).toNat = a.toNat / 128 := by
  have ha := a.isLt
  rw [shiftedOutHigh, toNat_flagByte_getLsbD]
  omega

/-- The difference of bytes is the difference of integers modulo 256 (R107, R109). -/
theorem toNat_sub_eq_emod (a b : Byte) : ((a - b).toNat : Int) = ((a.toNat : Int) - b.toNat) % 256 := by
  have ha := a.isLt
  have hb := b.isLt
  rw [BitVec.toNat_sub]
  omega

/-- A difference written after its no-borrow flag, so that with `x = 0xF` the difference stands (the spec's D8). -/
theorem State.setFlagThenResult_difference (s : State) (x : RegIx) (a b : Byte) :
    (((s.setFlagThenResult x (flagByte (noBorrow a b)) (a - b)).reg x).toNat : Int) = ((a.toNat : Int) - b.toNat) % 256 ∧
    (x ≠ 0xF → ((s.setFlagThenResult x (flagByte (noBorrow a b)) (a - b)).reg 0xF).toNat =
      if b.toNat ≤ a.toNat then 1 else 0) ∧
    OnlyRegs (fun r => r = x ∨ r = 0xF) s (s.setFlagThenResult x (flagByte (noBorrow a b)) (a - b)) := by
  refine ⟨?_, fun hx => ?_, State.setFlagThenResult_onlyRegs x _ _⟩
  · rw [State.reg_setFlagThenResult_result, toNat_sub_eq_emod]
  · rw [State.reg_setFlagThenResult_flag _ _ hx, toNat_flagByte_noBorrow]

/-! ### The step by its fetch -/

/-- The inputs of the step arrive, `pc` advances, and the fetched instruction is executed (20_memory.md R43). -/
theorem step_of_fetch_eq_some (hh : s.halted = false) (hf : s.fetch = some w) (hd : decodeWord w = some i) :
    step s = exec i s.takeInput.advance :=
  engineStep_of_fetch_eq_some (s := s.takeInput) hh hf hd

/-! ### The obligations -/

/-- Settles O26: each is one register write. -/
theorem loadsAndAddImmediate : Obligations.LoadsAndAddImmediate := by
  refine ⟨fun _ hw => decodeWord_of_mask_F000 hw rfl rfl, fun _ hw => decodeWord_of_mask_F000 hw rfl rfl,
    fun _ hw => decodeWord_of_mask_F00F hw rfl rfl, fun x y kk s => ⟨?_, ?_, ?_⟩⟩
  · exact ⟨_, rfl, s.reg_setReg_self x kk, State.setReg_onlyRegs x kk⟩
  · refine ⟨_, rfl, ?_, State.setReg_onlyRegs x _⟩
    rw [State.reg_setReg_self, BitVec.toNat_add]
  · exact ⟨_, rfl, s.reg_setReg_self x _, State.setReg_onlyRegs x _⟩

/-- Settles O27: each is one register write, of the bitwise operation. -/
theorem bitwiseLogic : Obligations.BitwiseLogic := by
  refine ⟨fun _ hw => decodeWord_of_mask_F00F hw rfl rfl, fun _ hw => decodeWord_of_mask_F00F hw rfl rfl,
    fun _ hw => decodeWord_of_mask_F00F hw rfl rfl, fun x y s => ⟨?_, ?_, ?_⟩⟩
  all_goals
    refine ⟨_, rfl, State.setReg_onlyRegs x _, fun i _ => ?_⟩
    rw [State.reg_setReg_self]
  · rw [BitVec.getLsbD_or, Bool.or_eq_true]
  · rw [BitVec.getLsbD_and, Bool.and_eq_true]
  · rw [BitVec.getLsbD_xor, Bool.xor_iff_ne]

/-- Settles O28: the carry is written last, so it stands with `x = 0xF` (the spec's D8). -/
theorem addWithCarry : Obligations.AddWithCarry := by
  refine ⟨fun _ hw => decodeWord_of_mask_F00F hw rfl rfl, fun x y s =>
    ⟨_, rfl, fun hx => ?_, ?_, State.setResultThenFlag_onlyRegs x _ _⟩⟩
  · rw [State.reg_setResultThenFlag_result _ _ hx, BitVec.toNat_add]
  · rw [State.reg_setResultThenFlag_flag, toNat_flagByte_carryOut]

/-- Settles O29: both are a difference written after its no-borrow flag, of `V[x]` and `V[y]` in the two orders. -/
theorem subtractWithNoBorrow : Obligations.SubtractWithNoBorrow :=
  ⟨fun _ hw => decodeWord_of_mask_F00F hw rfl rfl, fun _ hw => decodeWord_of_mask_F00F hw rfl rfl, fun x y s =>
    ⟨⟨_, rfl, s.setFlagThenResult_difference x (s.reg x) (s.reg y)⟩,
     ⟨_, rfl, s.setFlagThenResult_difference x (s.reg y) (s.reg x)⟩⟩⟩

/-- Settles O30: the shifted value is written last, so it stands with `x = 0xF` (the spec's D8). -/
theorem shiftsByOne : Obligations.ShiftsByOne := by
  refine ⟨fun _ hw => decodeWord_of_mask_F00F hw rfl rfl, fun _ hw => decodeWord_of_mask_F00F hw rfl rfl,
    fun x y s => ⟨?_, ?_⟩⟩
  all_goals refine ⟨_, rfl, ?_, fun hx => ?_, State.setFlagThenResult_onlyRegs x _ _⟩
  · rw [State.reg_setFlagThenResult_result, BitVec.toNat_ushiftRight, Nat.shiftRight_eq_div_pow, pow_one]
  · rw [State.reg_setFlagThenResult_flag _ _ hx, toNat_flagByte_shiftedOutLow]
  · rw [State.reg_setFlagThenResult_result, BitVec.toNat_shiftLeft, Nat.shiftLeft_eq, pow_one]
  · rw [State.reg_setFlagThenResult_flag _ _ hx, toNat_flagByte_shiftedOutHigh]

/-- Settles O31: the undefined words are the words of the well-formed no-ops. -/
theorem noOpEncodings : Obligations.NoOpEncodings :=
  ⟨fun _ hw hn => decodeWord_of_encode_eq (nop8_wf _ _ hn) (wordXYN_eq (fieldOp_of_mask_F000 hw) rfl),
   fun _ hw hkk => decodeWord_of_mask_F000 hw (nopE_wf _ hkk) rfl,
   fun _ hw hkk => decodeWord_of_mask_F000 hw (nopF_wf _ hkk) rfl,
   fun _ _ _ _ _ => ⟨rfl, rfl, rfl⟩⟩

/-- Settles O32: the random sample is that of the step's input, which the fetch does not depend on. -/
theorem randomUnderMask : Obligations.RandomUnderMask := by
  refine ⟨fun _ hw => decodeWord_of_mask_F000 hw rfl rfl, fun x kk s => ?_, fun x kk s i rest hrun hf => ?_⟩
  · refine ⟨_, rfl, State.setReg_onlyRegs x _, fun i _ => ?_⟩
    rw [State.reg_setReg_self, BitVec.getLsbD_and, Bool.and_eq_true]
  · obtain ⟨hh, -⟩ := hrun
    have hstep := step_of_fetch_eq_some (s := { s with inputs := i :: rest }) hh hf (decodeEncodeRoundTrip (.rnd x kk) rfl)
    exact ⟨_, hstep, State.reg_setReg_self _ x _⟩

end Sys2Proof.Machine
end

section
/-!
Index register and memory (43_index_memory.md R120 to R125): which words decode to these instructions, the loaded index as a number,
and the block instructions by whether their range lies inside memory.
-/

namespace Sys2Proof.Machine

variable {s : State} {w : Word}

/-! ### Decoding -/

theorem decodeWord_eq_ldI (hw : w &&& 0xF000#16 = 0xA000#16) : decodeWord w = some (.ldI (fieldNNN w)) :=
  decodeWord_of_encode_eq rfl (wordNNN_eq (fieldOp_of_mask_F000 hw))

/-- The defined rows of families E and F, with the field `x` and a fixed low byte (30_encoding.md R65). -/
theorem decodeWord_of_mask_F0FF {i : Instr} {c : Word} (hw : w &&& 0xF0FF#16 = c) (hi : i.wf = true)
    (he : encode i = wordXKK (fieldOp c) (fieldX w) (fieldKK c)) : decodeWord w = some i :=
  decodeWord_of_encode_eq hi (he.trans (wordXKK_eq (fieldOp_of_mask hw rfl) (fieldKK_of_mask hw rfl)))

/-! ### Index values -/

theorem toNat_indexSum (i0 : Word) (a : Byte) : (indexSum i0 a).toNat = (i0.toNat + a.toNat) % 65536 := by
  rw [indexSum, BitVec.toNat_add, BitVec.toNat_setWidth_of_le (by decide)]

/-- Five times the whole 8-bit value fits in `I` (R122). -/
theorem toNat_glyphAddress (a : Byte) : (glyphAddress a).toNat = 5 * a.toNat := by
  have ha := a.isLt
  have hfits : 5 * a.toNat < 2 ^ 16 := by omega
  exact (BitVec.toNat_ofNat _ _).trans (Nat.mod_eq_of_lt hfits)

/-- A number no larger than a byte fits in one, as each of its decimal digits does (R123). -/
theorem toNat_ofNat_of_le_byte {n : Nat} {a : Byte} (h : n ≤ a.toNat) : (BitVec.ofNat 8 n).toNat = n :=
  (BitVec.toNat_ofNat n 8).trans (Nat.mod_eq_of_lt (h.trans_lt a.isLt))

/-! ### A range beyond memory (20_memory.md R42) -/

theorem State.withRange_of_gt {n : Nat} {word : Word} {act : State} (h : 0xFFF < s.I.toNat + n) :
    s.withRange (n + 1) word act = s.raise .boundsFault word (s.I.toNat + n) := by
  obtain ⟨hin, -⟩ | ⟨-, e⟩ := s.withRange_cases (n + 1) word act
  · simp only [Config.memorySize] at hin
    omega
  · exact e

/-- A range of `n + 1` bytes that reaches beyond memory halts the machine whatever the action, with cause 5 and the highest address,
which the 32 bits of the record hold. -/
theorem State.withRange_onlyHalt {n : Nat} {word : Word} {act : State} (hn : n < 16) (h : 0xFFF < s.I.toNat + n) :
    OnlyHalt s (s.withRange (n + 1) word act) ∧ (s.withRange (n + 1) word act).fault.cause = 5 ∧
    (s.withRange (n + 1) word act).fault.info.toNat = s.I.toNat + n := by
  have hI := s.I.isLt
  rw [State.withRange_of_gt h]
  exact ⟨rfl, rfl, (BitVec.toNat_ofNat _ _).trans (Nat.mod_eq_of_lt (by omega))⟩

/-! ### A range inside memory -/

theorem exec_ldB_of_le {x : RegIx} (h : s.I.toNat + 2 ≤ 0xFFF) :
    exec (.ldB x) s = .next (s.store s.I.toNat (bcdDigits (s.reg x))) :=
  congrArg Host.Outcome.next (State.withRange_of_le (Nat.succ_le_succ h))

theorem exec_loadRegs_of_le {x : RegIx} (h : s.I.toNat + x.toNat ≤ 0xFFF) :
    exec (.loadRegs x) s = .next (s.loadBlock s.I.toNat (x.toNat + 1)) :=
  congrArg Host.Outcome.next (State.withRange_of_le (Nat.succ_le_succ h))

section
variable {a : Nat} {bs : List Byte}

/-- A stored byte is read back at its place in the sequence. -/
theorem State.read_store_add (hm : s.mem.wf) (ha : a + bs.length ≤ Config.memorySize) {k : Nat} (hk : k < bs.length) :
    (s.store a bs).mem.read (a + k) = bs[k] := by
  have hin : a ≤ a + k ∧ a + k - a < bs.length := by omega
  rw [State.store_mem, Memory.read_writeBytes hm ha, dif_pos hin]
  simp only [Nat.add_sub_cancel_left]

theorem State.store_onlyBytes (hm : s.mem.wf) (ha : a + bs.length ≤ Config.memorySize) :
    OnlyBytes a bs.length s (s.store a bs) := by
  refine ⟨rfl, fun b hb => ?_⟩
  have hout : ¬ (a ≤ b ∧ b - a < bs.length) := by omega
  rw [State.store_mem, Memory.read_writeBytes hm ha, dif_neg hout]

end

/-- A block load up to `V[x]` writes no register above it (R125). -/
theorem State.loadBlock_onlyRegs (a : Nat) (x : RegIx) :
    OnlyRegs (fun r => r.toNat ≤ x.toNat) s (s.loadBlock a (x.toNat + 1)) :=
  ⟨rfl, fun r hr => (s.reg_loadBlock a _ r).trans (if_neg fun h => hr (Nat.le_of_lt_succ h))⟩

/-! ### The obligations -/

/-- Settles O33: `I` takes the zero-extended `nnn`. -/
theorem loadIndex : Obligations.LoadIndex :=
  ⟨fun _ => decodeWord_eq_ldI, fun nnn _ => ⟨_, rfl, toNat_addrOperand nnn, rfl⟩⟩

/-- Settles O34: both are one write of `I`, of the sum and of the product as numbers. -/
theorem indexArithmetic : Obligations.IndexArithmetic :=
  ⟨fun _ hw => decodeWord_of_mask_F0FF hw rfl rfl, fun _ hw => decodeWord_of_mask_F0FF hw rfl rfl, fun x s =>
    ⟨⟨_, rfl, toNat_indexSum s.I (s.reg x), rfl⟩, ⟨_, rfl, toNat_glyphAddress (s.reg x), rfl⟩⟩⟩

/-- Settles O35: inside memory the three bytes read back are the digits, none larger than `V[x]`. -/
theorem storeDecimalDigits : Obligations.StoreDecimalDigits := by
  refine ⟨fun _ hw => decodeWord_of_mask_F0FF hw rfl rfl, fun x s hm => ⟨fun h => ?_, fun h => ?_⟩⟩
  · have hin : s.I.toNat + (bcdDigits (s.reg x)).length ≤ Config.memorySize := Nat.succ_le_succ h
    have hread {k : Nat} (hk : k < 3) := congrArg BitVec.toNat (State.read_store_add hm hin (k := k) hk)
    refine ⟨_, exec_ldB_of_le h, ?_, ?_, ?_, State.store_onlyBytes hm hin⟩
    · exact (hread (k := 0) (by decide)).trans (toNat_ofNat_of_le_byte (Nat.div_le_self _ _))
    · exact (hread (k := 1) (by decide)).trans (toNat_ofNat_of_le_byte ((Nat.mod_le _ _).trans (Nat.div_le_self _ _)))
    · exact (hread (k := 2) (by decide)).trans (toNat_ofNat_of_le_byte (Nat.mod_le _ _))
  · exact ⟨_, rfl, State.withRange_onlyHalt (by decide) h⟩

/-- Settles O36: inside memory each register of the block reads back at its place, and the block is `x + 1` bytes long. -/
theorem storeRegisterBlock : Obligations.StoreRegisterBlock := by
  refine ⟨fun _ hw => decodeWord_of_mask_F0FF hw rfl rfl, fun x s hm => ⟨fun h => ?_, fun h => ?_⟩⟩
  · have hlen : (s.firstRegs (x.toNat + 1)).length = x.toNat + 1 := s.length_firstRegs x.isLt
    have hin : s.I.toNat + (x.toNat + 1) ≤ Config.memorySize := Nat.succ_le_succ h
    refine ⟨_, exec_storeRegs_of_le h, fun k hk => ?_, ?_⟩
    · exact State.read_store_firstRegs hm x.isLt hin (Nat.lt_succ_of_le hk)
    · have hframe := State.store_onlyBytes (bs := s.firstRegs (x.toNat + 1)) hm (hlen.symm ▸ hin)
      rwa [hlen] at hframe
  · exact ⟨_, rfl, State.withRange_onlyHalt x.isLt h⟩

/-- Settles O37: inside memory the block load gives each register up to `V[x]` its byte and keeps the others. -/
theorem loadRegisterBlock : Obligations.LoadRegisterBlock := by
  refine ⟨fun _ hw => decodeWord_of_mask_F0FF hw rfl rfl, fun x s => ⟨fun h => ?_, fun h => ?_⟩⟩
  · refine ⟨_, exec_loadRegs_of_le h, fun k hk => ?_, State.loadBlock_onlyRegs _ x⟩
    rw [State.reg_loadBlock, if_pos (Nat.lt_succ_of_le hk)]
  · exact ⟨_, rfl, State.withRange_onlyHalt x.isLt h⟩

end Sys2Proof.Machine
end

section
/-!
Display (44_display.md R130 to R132): a draw by the pixels that the set bits of its sprite cover, and two draws in a row.
-/

namespace Sys2Proof.Machine

variable {s t : State} {x y r' : RegIx} {n : Nibble} {r : Fin 32} {c : Fin 64}

/-! ### The compositor by the covered pixels -/

/-- The pixels that the compositor names are those of R131. -/
theorem mem_rowsPixels_readBytes :
    (r, c) ∈ rowsPixels (s.reg x).toNat (s.reg y).toNat (s.mem.readBytes s.I.toNat n.toNat) ↔
      SpriteCovers s x y n.toNat r c := by
  simp [mem_rowsPixels, SpriteCovers, Memory.readBytes, wrapRow, wrapCol, Fin.ext_iff]

/-- No sprite is taller than the display. -/
theorem Memory.length_readBytes_nibble_le (m : Memory) (a : Nat) (n : Nibble) : (m.readBytes a n.toNat).length ≤ 32 := by
  have hn := n.isLt
  rw [Memory.readBytes, List.length_map, List.length_range]
  omega

theorem State.drawn_pixel_ne_iff :
    (s.drawn x y n.toNat).1.pixel r c ≠ s.fb.pixel r c ↔ SpriteCovers s x y n.toNat r c := by
  obtain ⟨hpixel, -⟩ := drawRows_spec (s.mem.length_readBytes_nibble_le s.I.toNat n) s.fb
  rw [← mem_rowsPixels_readBytes, State.drawn, hpixel]
  cases s.fb.pixel r c <;> simp

theorem State.drawn_hit_iff :
    (s.drawn x y n.toNat).2 = true ↔ ∃ r c, SpriteCovers s x y n.toNat r c ∧ s.fb.pixel r c = true := by
  obtain ⟨-, hhit⟩ := drawRows_spec (s.mem.length_readBytes_nibble_le s.I.toNat n) s.fb
  rw [State.drawn, hhit, List.any_eq_true, Prod.exists]
  exact exists₂_congr fun _ _ => and_congr_left' mem_rowsPixels_readBytes

/-! ### The completed draw -/

/-- The state after a draw whose sprite lies inside memory (R131). -/
def State.afterDraw (s : State) (x y : RegIx) (n : Nibble) : State :=
  (s.setFb (s.drawn x y n.toNat).1).setReg regVF (flagByte (s.drawn x y n.toNat).2)

theorem exec_drw_of_inside (h : n.toNat = 0 ∨ s.I.toNat + n.toNat ≤ Config.memorySize) :
    exec (.drw x y n) s = .next (s.afterDraw x y n) := by
  rw [exec, execDrw, State.withRange, rangeFault_eq_none.2 h, State.afterDraw]

/-- A draw that leaves the machine running has found its sprite inside memory (20_memory.md R42). -/
theorem inside_of_exec_drw (h : exec (.drw x y n) s = .next t) (ht : t.halted = false) :
    n.toNat = 0 ∨ s.I.toNat + n.toNat ≤ Config.memorySize := by
  obtain ⟨hin, -⟩ | ⟨-, e⟩ := s.withRange_cases n.toNat (encode (.drw x y n)) (s.afterDraw x y n)
  · exact hin
  · obtain rfl := e.symm.trans (Host.Outcome.next.inj h)
    cases ht

theorem State.afterDraw_pixel_ne_iff :
    (s.afterDraw x y n).fb.pixel r c ≠ s.fb.pixel r c ↔ SpriteCovers s x y n.toNat r c :=
  State.drawn_pixel_ne_iff

theorem State.reg_afterDraw_ne (h : r' ≠ 0xF) : (s.afterDraw x y n).reg r' = s.reg r' :=
  State.reg_setReg_ne _ _ h

theorem State.reg_afterDraw_flag : (s.afterDraw x y n).reg 0xF = flagByte (s.drawn x y n.toNat).2 :=
  State.reg_setReg_self _ _ _

theorem State.afterDraw_flag_eq_one_iff :
    (s.afterDraw x y n).reg 0xF = 1 ↔ ∃ r c, SpriteCovers s x y n.toNat r c ∧ s.fb.pixel r c = true := by
  rw [State.reg_afterDraw_flag, ← State.drawn_hit_iff]
  cases (s.drawn x y n.toNat).2 <;> decide

theorem State.afterDraw_flag_eq_zero_iff :
    (s.afterDraw x y n).reg 0xF = 0 ↔ ¬ ∃ r c, SpriteCovers s x y n.toNat r c ∧ s.fb.pixel r c = true := by
  rw [State.reg_afterDraw_flag, ← State.drawn_hit_iff]
  cases (s.drawn x y n.toNat).2 <;> decide

/-! ### A second draw -/

/-- With its coordinates outside VF, a second draw covers the pixels of the first. -/
theorem State.afterDraw_spriteCovers (hx : x ≠ 0xF) (hy : y ≠ 0xF) :
    SpriteCovers (s.afterDraw x y n) x y n.toNat r c ↔ SpriteCovers s x y n.toNat r c := by
  rw [SpriteCovers, State.reg_afterDraw_ne hx, State.reg_afterDraw_ne hy]
  exact Iff.rfl

/-- Two draws change a pixel twice or not at all. -/
theorem State.afterDraw_afterDraw_fb (hx : x ≠ 0xF) (hy : y ≠ 0xF) :
    ((s.afterDraw x y n).afterDraw x y n).fb = s.fb := by
  refine Framebuffer.ext_pixel fun r c => ?_
  have hfirst := State.afterDraw_pixel_ne_iff (s := s) (x := x) (y := y) (n := n) (r := r) (c := c)
  have hsecond := State.afterDraw_pixel_ne_iff (s := s.afterDraw x y n) (x := x) (y := y) (n := n) (r := r) (c := c)
  rw [State.afterDraw_spriteCovers hx hy] at hsecond
  by_cases hcov : SpriteCovers s x y n.toNat r c
  · exact (Bool.eq_not_of_ne (hsecond.2 hcov)).trans (Bool.eq_not_of_ne (hfirst.2 hcov).symm).symm
  · exact (not_not.1 (mt hsecond.1 hcov)).trans (not_not.1 (mt hfirst.1 hcov))

/-- A covered pixel is on after a draw exactly when it was off before. -/
theorem State.afterDraw_pixel_of_covers (h : SpriteCovers s x y n.toNat r c) :
    (s.afterDraw x y n).fb.pixel r c = true ↔ s.fb.pixel r c = false := by
  rw [Bool.eq_not_of_ne (State.afterDraw_pixel_ne_iff.2 h), Bool.not_eq_true']

/-! ### The obligations -/

/-- Settles O40: inside memory by the covered pixels, beyond it by the range check of 20_memory.md R42. -/
theorem drawTogglesSprite : Obligations.DrawTogglesSprite := by
  refine ⟨fun _ hw => decodeWord_of_encode_eq rfl (wordXYN_eq (fieldOp_of_mask_F000 hw) rfl), fun x y n s =>
    ⟨fun h => ?_, fun hn h => ?_⟩⟩
  · have hin : n.toNat = 0 ∨ s.I.toNat + n.toNat ≤ Config.memorySize := by
      obtain rfl | h := h
      · exact .inl rfl
      · simp only [Config.memorySize]
        omega
    exact ⟨_, exec_drw_of_inside hin, fun _ _ => State.afterDraw_pixel_ne_iff, State.afterDraw_flag_eq_one_iff.2,
      State.afterDraw_flag_eq_zero_iff.2, fun _ => State.reg_afterDraw_ne, rfl⟩
  · have hlt := n.isLt
    obtain ⟨m, hm⟩ : ∃ m, n.toNat = m + 1 := Nat.exists_eq_succ_of_ne_zero fun h0 => hn (BitVec.eq_of_toNat_eq h0)
    refine ⟨_, rfl, ?_⟩
    rw [hm] at h ⊢
    exact State.withRange_onlyHalt (by omega) h

/-- Settles O41: the second draw toggles the pixels of the first back, and a pixel it finds on is one that was off. -/
theorem drawTwiceRestoresDisplay : Obligations.DrawTwiceRestoresDisplay := by
  intro x y n s t u hx hy _ hst ht htu
  have hin := inside_of_exec_drw hst ht
  obtain rfl : s.afterDraw x y n = t := Host.Outcome.next.inj ((exec_drw_of_inside hin).symm.trans hst)
  obtain rfl : (s.afterDraw x y n).afterDraw x y n = u :=
    Host.Outcome.next.inj ((exec_drw_of_inside (s := s.afterDraw x y n) hin).symm.trans htu)
  refine ⟨State.afterDraw_afterDraw_fb hx hy, State.afterDraw_flag_eq_one_iff.trans (exists₂_congr fun r c => ?_)⟩
  rw [State.afterDraw_spriteCovers hx hy]
  exact and_congr_right State.afterDraw_pixel_of_covers

/-- Settles O39: every pixel of the blank framebuffer is off. -/
theorem clearDisplay : Obligations.ClearDisplay :=
  ⟨rfl, fun _ => ⟨_, rfl, Framebuffer.pixel_blank, rfl⟩⟩

end Sys2Proof.Machine
end

section
/-!
Keys and timers (45_keys_timers.md R140 to R146): an action on a key code by the register's value, the wait for a key by the latch, and
the instructions that read and arm a timer.
-/

namespace Sys2Proof.Machine

variable {s : State} {x : RegIx} {k : Fin 16}

/-! ### An action on a key code (R140, R141) -/

theorem State.withKey_of_eq {a : Byte} (h : a.toNat = k.val) (word : Word) (act : Fin 16 → State) :
    s.withKey a word act = act k := by
  obtain ⟨hlt, e⟩ | ⟨hgt, -⟩ := s.withKey_cases a word act
  · rw [e, Fin.ext (a := ⟨a.toNat, hlt⟩) h]
  · omega

theorem State.withKey_of_gt {a : Byte} (h : 15 < a.toNat) (word : Word) (act : Fin 16 → State) :
    s.withKey a word act = s.raise .keyIndexFault word a.toNat := by
  obtain ⟨hlt, -⟩ | ⟨-, e⟩ := s.withKey_cases a word act
  · omega
  · exact e

/-- A value that is no key code halts the machine whatever the action, with cause 6 and the value recorded. -/
theorem State.withKey_onlyHalt {a : Byte} (h : 15 < a.toNat) (word : Word) (act : Fin 16 → State) :
    OnlyHalt s (s.withKey a word act) ∧ (s.withKey a word act).fault.cause = 6 ∧
    (s.withKey a word act).fault.info.toNat = a.toNat := by
  have ha := a.isLt
  rw [State.withKey_of_gt h]
  exact ⟨rfl, rfl, (BitVec.toNat_ofNat _ _).trans (Nat.mod_eq_of_lt (by omega))⟩

theorem exec_skp_of_key (h : (s.reg x).toNat = k.val) : exec (.skp x) s = .next (s.skipIf s.key[k]) :=
  congrArg Host.Outcome.next (State.withKey_of_eq h _ _)

theorem exec_sknp_of_key (h : (s.reg x).toNat = k.val) : exec (.sknp x) s = .next (s.skipIf (!s.key[k])) :=
  congrArg Host.Outcome.next (State.withKey_of_eq h _ _)

/-- A skip on a condition that fails. -/
theorem State.skipIf_not_pc (c : Bool) : (s.skipIf (!c)).pc = if c = true then s.pc else s.pc + 2 := by
  cases c <;> rfl

/-! ### The wait for a key (R143, R144) -/

/-- A pressed key below which none is pressed is the lowest pressed one. -/
theorem lowestPressed_eq_some_of_lowest {key : Vector Bool 16} (hk : key[k] = true) (hlow : ∀ j < k, key[j] = false) :
    lowestPressed key = some k := by
  cases h : lowestPressed key with
  | none => simp [lowestPressed_eq_none.1 h k] at hk
  | some j =>
    obtain ⟨hj, hjlow⟩ := lowestPressed_eq_some h
    have hkj : ¬ k < j := fun hlt => by simp [hjlow k hlt] at hk
    have hjk : ¬ j < k := fun hlt => by simp [hlow j hlt] at hj
    rw [le_antisymm (not_lt.1 hkj) (not_lt.1 hjk)]

theorem exec_ldVxK_of_pressed (h : lowestPressed s.key = some k) :
    exec (.ldVxK x) s = .next (s.setReg x (BitVec.ofNat 8 k.val)) := by
  rw [exec, execLdVxK, h]

theorem exec_ldVxK_of_none_pressed (h : ∀ k : Fin 16, s.key[k] = false) : exec (.ldVxK x) s = .next s.stepBack := by
  rw [exec, execLdVxK, lowestPressed_eq_none.2 h]

theorem toNat_ofNat_key (k : Fin 16) : (BitVec.ofNat 8 k.val).toNat = k.val :=
  (BitVec.toNat_ofNat _ _).trans (Nat.mod_eq_of_lt (by omega))

/-- The step back undoes the advance of the fetch, so that `pc` is the address of the wait itself (R143). -/
@[simp] theorem State.stepBack_advance (s : State) : s.advance.stepBack = s := by
  simp [State.advance, State.stepBack]

/-! ### The obligations -/

/-- Settles O42: by whether `V[x]` is a key code; on one, both are a conditional skip on the key's bit of the latch. -/
theorem skipsOnKeys : Obligations.SkipsOnKeys := by
  refine ⟨fun _ hw => decodeWord_of_mask_F0FF hw rfl rfl, fun _ hw => decodeWord_of_mask_F0FF hw rfl rfl, fun x s =>
    ⟨fun k hk => ⟨?_, ?_⟩, fun h => ⟨?_, ?_⟩⟩⟩
  · exact ⟨_, exec_skp_of_key hk, State.skipIf_pc _, State.skipIf_onlyPc _⟩
  · exact ⟨_, exec_sknp_of_key hk, State.skipIf_not_pc _, State.skipIf_onlyPc _⟩
  · exact ⟨_, rfl, State.withKey_onlyHalt h _ _⟩
  · exact ⟨_, rfl, State.withKey_onlyHalt h _ _⟩

/-- Settles O43: by what the lowest pressed key is. -/
theorem waitForKey : Obligations.WaitForKey := by
  refine ⟨fun _ hw => decodeWord_of_mask_F0FF hw rfl rfl, fun x s => ⟨fun k hk hlow => ?_, exec_ldVxK_of_none_pressed⟩⟩
  refine ⟨_, exec_ldVxK_of_pressed (lowestPressed_eq_some_of_lowest hk hlow), ?_, State.setReg_onlyRegs x _⟩
  rw [State.reg_setReg_self, toNat_ofNat_key]

/-- Settles O44: the fetch advances `pc` and the wait steps it back. -/
theorem waitStepChangesNothing : Obligations.WaitStepChangesNothing := by
  intro x s hrun hf hkey
  obtain ⟨hh, -⟩ := hrun
  calc step s
    _ = exec (.ldVxK x) s.takeInput.advance := step_of_fetch_eq_some hh hf (decodeEncodeRoundTrip (.ldVxK x) rfl)
    _ = .next s.takeInput.advance.stepBack := exec_ldVxK_of_none_pressed hkey
    _ = .next s.takeInput := by rw [State.stepBack_advance]

/-- Settles O45: one register write, of the value that `Timer.value_eq_spec` gives as R30's. -/
theorem readDelayTimer : Obligations.ReadDelayTimer := by
  refine ⟨fun _ hw => decodeWord_of_mask_F0FF hw rfl rfl, fun x s => ⟨_, rfl, ?_, State.setReg_onlyRegs x _⟩⟩
  rw [State.reg_setReg_self, Timer.value_eq_spec]

/-- Settles O46: each replaces its timer by one armed with `V[x]` at `now` (10_state.md R31). -/
theorem armTimers : Obligations.ArmTimers :=
  ⟨fun _ hw => decodeWord_of_mask_F0FF hw rfl rfl, fun _ hw => decodeWord_of_mask_F0FF hw rfl rfl, fun _ _ =>
    ⟨⟨_, rfl, rfl, rfl, rfl, rfl⟩, ⟨_, rfl, rfl, rfl, rfl, rfl⟩⟩⟩

end Sys2Proof.Machine
end

section
/-!
Faults (60_exceptions.md R161 to R165): every instruction raises the fault that R161 tabulates for it and no other, what a step keeps
when it halts, and what every later step keeps.
-/

namespace Sys2Proof.Machine

variable {s t : State} {w : Word} {i : Instr}

/-! ### The table of R161 and the state after an instruction -/

/-- The state `t` after an instruction of word `w` for which R161 tabulates `f` in the state `s`: the halt and the record as before
without a fault, and with one nothing but them differs, the record holding what R163 says. -/
def FollowsFaultTable (s : State) (w : Word) (f : Option (Nat × Nat)) (t : State) : Prop :=
  match f with
  | none => t.halted = s.halted ∧ t.fault = s.fault
  | some (cause, info) =>
    t = { s with
      halted := true
      fault := { cause := BitVec.ofNat 8 cause, addr := s.pc - 2, word := w, info := BitVec.ofNat 32 info } }

theorem State.skipIf_followsFaultTable (c : Bool) : FollowsFaultTable s w none (s.skipIf c) := by
  cases c <;> exact ⟨rfl, rfl⟩

/-- `CheckRange` raises cause 5 with the highest address when that lies beyond 0xFFF (20_memory.md R42). -/
theorem State.withRange_followsFaultTable {count : Nat} {act : State} (ha : FollowsFaultTable s w none act) :
    FollowsFaultTable s w
      (if 0 < count ∧ 0xFFF < s.I.toNat + count - 1 then some (5, s.I.toNat + count - 1) else none)
      (s.withRange count w act) := by
  obtain ⟨hin, e⟩ | ⟨hout, e⟩ := s.withRange_cases count w act <;> rw [e]
  · rw [if_neg (by simp only [Config.memorySize] at hin; omega)]; exact ha
  · rw [if_pos (by simp only [Config.memorySize] at hout; omega)]; rfl

/-- The check of a range that is not empty. -/
theorem State.withRange_succ_followsFaultTable {n : Nat} {act : State} (ha : FollowsFaultTable s w none act) :
    FollowsFaultTable s w (if 0xFFF < s.I.toNat + n then some (5, s.I.toNat + n) else none)
      (s.withRange (n + 1) w act) := by
  simpa using State.withRange_followsFaultTable (count := n + 1) ha

/-- A value above 15 raises cause 6 with the value (45_keys_timers.md R140). -/
theorem State.withKey_followsFaultTable {a : Byte} {act : Fin 16 → State} (ha : ∀ k, FollowsFaultTable s w none (act k)) :
    FollowsFaultTable s w (if 0xF < a.toNat then some (6, a.toNat) else none) (s.withKey a w act) := by
  obtain ⟨hlt, e⟩ | ⟨hgt, e⟩ := s.withKey_cases a w act <;> rw [e]
  · rw [if_neg (by omega)]; exact ha _
  · rw [if_pos hgt]; rfl

theorem execCall_followsFaultTable (nnn : Addr) :
    ∃ t, exec (.call nnn) s = .next t ∧ FollowsFaultTable s (encode (.call nnn)) (specFault (.call nnn) s) t := by
  by_cases h : s.sp.val = 16
  · exact ⟨_, exec_call_of_full nnn h, by rw [specFault, if_pos h]; rfl⟩
  · exact ⟨_, exec_call_of_lt nnn (by omega), by rw [specFault, if_neg h]; exact ⟨rfl, rfl⟩⟩

theorem execRet_followsFaultTable :
    ∃ t, exec .ret s = .next t ∧ FollowsFaultTable s (encode .ret) (specFault .ret s) t := by
  by_cases h : s.sp.val = 0
  · exact ⟨_, exec_ret_of_empty h, by rw [specFault, if_pos h]; rfl⟩
  · exact ⟨_, exec_ret_of_pos (by omega), by rw [specFault, if_neg h]; exact ⟨rfl, rfl⟩⟩

theorem execLdVxK_followsFaultTable (x : RegIx) :
    ∃ t, exec (.ldVxK x) s = .next t ∧ FollowsFaultTable s (encode (.ldVxK x)) none t := by
  refine ⟨_, rfl, ?_⟩
  split <;> exact ⟨rfl, rfl⟩

/-- Every instruction answers a next state by its line of R161. -/
theorem exec_followsFaultTable (i : Instr) (s : State) :
    ∃ t, exec i s = .next t ∧ FollowsFaultTable s (encode i) (specFault i s) t :=
  match i with
  | .call nnn => execCall_followsFaultTable nnn
  | .ret => execRet_followsFaultTable
  | .drw _ _ _ => ⟨_, rfl, State.withRange_followsFaultTable ⟨rfl, rfl⟩⟩
  | .ldB _ | .storeRegs _ | .loadRegs _ => ⟨_, rfl, State.withRange_succ_followsFaultTable ⟨rfl, rfl⟩⟩
  | .skp _ | .sknp _ => ⟨_, rfl, State.withKey_followsFaultTable fun _ => State.skipIf_followsFaultTable _⟩
  | .seImm _ _ | .sneImm _ _ | .seReg _ _ _ | .sneReg _ _ _ => ⟨_, rfl, State.skipIf_followsFaultTable _⟩
  | .ldVxK x => execLdVxK_followsFaultTable x
  | .cls | .sys _ | .jp _ | .ldImm _ _ | .addImm _ _ | .ldReg _ _ | .orReg _ _ | .andReg _ _ | .xorReg _ _
  | .addReg _ _ | .subReg _ _ | .shr _ _ | .subnReg _ _ | .shl _ _ | .nop8 _ _ _ | .ldI _ | .jpV0 _ | .rnd _ _
  | .nopE _ _ | .ldVxDT _ | .ldDTVx _ | .ldSTVx _ | .addI _ | .ldF _ | .nopF _ _ => ⟨_, rfl, rfl, rfl⟩

theorem followsFaultTable_of_exec (h : exec i s = .next t) : FollowsFaultTable s (encode i) (specFault i s) t := by
  obtain ⟨u, hu, hf⟩ := exec_followsFaultTable i s
  obtain rfl : u = t := Host.Outcome.next.inj (hu.symm.trans h)
  exact hf

/-- Settles O11: the two cases of the table, by `followsFaultTable_of_exec`. -/
theorem faultConditionsOfInstructions : Obligations.FaultConditionsOfInstructions := by
  intro i s t hh h
  have ht := followsFaultTable_of_exec h
  refine ⟨fun hf => ?_, fun cause info hf => ?_⟩ <;> rw [hf] at ht
  · obtain ⟨hhalt, hfault⟩ := ht
    exact ⟨hhalt.trans hh, hfault⟩
  · exact ht

/-! ### A step that halts (R163) -/

/-- The advance of the fetch is undone in `fault.addr`. -/
theorem State.advance_pc_sub_two (s : State) : s.advance.pc - 2 = s.pc :=
  BitVec.add_sub_cancel s.pc 2

/-- Settles O12: the fetched word decodes to an instruction whose word it is, and this has raised the fault that R161 tabulates. -/
theorem stepFaultIsPrecise : Obligations.StepFaultIsPrecise := by
  intro s t w hrun hf h hhalt
  obtain ⟨hh, -⟩ := hrun
  obtain ⟨i, hd⟩ := exists_decodeWord_eq_some w
  obtain ⟨-, hw⟩ := decodeWord_sound hd
  have hexec : exec i s.takeInput.advance = .next t := (step_of_fetch_eq_some hh hf hd).symm.trans h
  obtain ⟨hnone, hsome⟩ := faultConditionsOfInstructions i s.takeInput.advance t hh hexec
  cases hfault : specFault i s.takeInput.advance with
  | none =>
    obtain ⟨hrunning, -⟩ := hnone hfault
    exact absurd (hhalt.symm.trans hrunning) (by decide)
  | some f =>
    obtain rfl := hsome f.1 f.2 hfault
    exact ⟨rfl, s.takeInput.advance_pc_sub_two, hw⟩

/-! ### A halted machine (R164, R165) and the time -/

/-- A halted engine changes nothing (R164). -/
theorem engineStep_of_halted (h : s.halted = true) : engineStep s = .next s := by
  rw [engineStep, if_pos h]

/-- Settles O9: the step is the engine's after the inputs, which do not touch the halt. -/
theorem haltedEngineChangesNothing : Obligations.HaltedEngineChangesNothing :=
  fun s h => ⟨engineStep_of_halted h, engineStep_of_halted (s := s.takeInput) h⟩

/-- The engine does not touch the time sample (10_state.md R33). -/
theorem engineStep_now (h : engineStep s = .next t) : t.now = s.now := by
  obtain ⟨-, e⟩ | ⟨-, -, e⟩ | ⟨w, -, -, -, -, e⟩ | ⟨w, i, -, -, -, -, e⟩ := engineStep_cases s <;> rw [e] at h
  · cases h; rfl
  · cases h; rfl
  · cases h; rfl
  · obtain ⟨-, hnow, -⟩ := noInstructionWritesInputs i s.advance t h
    exact hnow

/-- Settles O13: only the inputs of the step move the time, forward; and a halted machine takes nothing but them. -/
theorem haltAndTimeAreMonotone : Obligations.HaltAndTimeAreMonotone := by
  refine fun s t h => ⟨?_, fun hh => ?_⟩
  · rw [engineStep_now h]
    exact Nat.le_add_right _ _
  · obtain ⟨-, hstep⟩ := haltedEngineChangesNothing s hh
    obtain rfl := Host.Outcome.next.inj (hstep.symm.trans h)
    exact ⟨hh, rfl⟩

end Sys2Proof.Machine
end

section
/-!
The interfaces of the block (70_reset_and_hazards.md): every step completes (R201), and a reset whose image does not fit is refused (R196).
-/

namespace Sys2Proof.Machine

/-- The engine answers a next state: itself when halted, the state of the fault, or what the fetched instruction answers. -/
theorem exists_engineStep_eq_next (s : State) : ∃ t, engineStep s = .next t := by
  obtain ⟨-, e⟩ | ⟨-, -, e⟩ | ⟨_, -, -, -, -, e⟩ | ⟨_, i, -, -, -, -, e⟩ := engineStep_cases s
  · exact ⟨_, e⟩
  · exact ⟨_, e⟩
  · exact ⟨_, e⟩
  · obtain ⟨t, ht, -⟩ := exec_effect i s.advance
    exact ⟨t, e.trans ht⟩

/-- Settles O10: a step is the engine's step on the state with its inputs. -/
theorem everyStepCompletes : Obligations.EveryStepCompletes :=
  fun s => exists_engineStep_eq_next s.takeInput

/-- Settles O15: the length of the image is the first check of a reset, before the parameters. -/
theorem oversizedImageRefused : Obligations.OversizedImageRefused := by
  intro p h
  have hlen : Config.memorySize < p.programStart + p.program.length := h
  rw [State.resetWith, if_pos hlen]

end Sys2Proof.Machine
end
